-- ==== Sys2Proof/Word.lean ====
section
/-! DEFINITION. The plain types of the datapath (`00_scope.md` R7, R9, R18): words, bytes, blocks, schedules, and the
rotate and shift amounts for which `ROTR` and `SHR` have a meaning (R11, R12). -/

namespace Sys2Proof

/-- A word: an unsigned 32-bit value (R9). -/
abbrev Word := BitVec 32

/-- A byte: an unsigned 8-bit value (R9). -/
abbrev Byte := BitVec 8

/-- A block: 512 bits held as 64 bytes (R24). -/
abbrev Block := Vector Byte 64

/-- A message schedule: 64 words (R23). -/
abbrev Schedule := Vector Word 64

/-- Eight words: a Hash State `H0..H7` (R21) or the Working Registers `a..h` (R22). -/
abbrev Eight := Vector Word 8

/-- The digest: 32 bytes (R25). -/
abbrev DigestBytes := Vector Byte 32

/-- A rotate or shift amount. `ROTR` and `SHR` have no meaning for 0 or for 32 and more (R11, R12, R136), so no such
amount can be written. DESIGN CHOICE (log entry 13): safe. -/
abbrev Amount := {n : Nat // 1 ≤ n ∧ n ≤ 31}

end Sys2Proof
end

