-- ==== Sys2Proof/Config.lean ====
section
/-! DEFINITION. What the spec leaves open: the open parameters of R8 and the free values. Every constant here is opaque:
no proof can see which value it has. -/

namespace Sys2Proof

/-- `REG_BASE` (R8): the platform address of the register window. No rule depends on it (R51). Log entry 14. -/
opaque Config.regBase : Nat

/-- One less than `N_ENGINES` (R8: at least 1). Instances share no mutable state (R181), so the model is of one
engine. Log entry 14. -/
opaque Config.otherEngines : Nat

/-- `byte_be64(v, q)` for `q` outside 0..7, where R14 gives the function no value: a free value. Only an LDB with
`NB <= J`, which no run reaches, asks for it. DESIGN CHOICE (log entry 9): safe. -/
opaque Config.byteBe64Outside : BitVec 64 → Nat → Byte

/-- What FOLD leaves in the 56-bit `J` when `J + 1` does not fit in it, where R149 states no value: a free value. No
run reaches it (R29). DESIGN CHOICE (log entry 10): safe. -/
opaque Config.blockIndexPastEnd : BitVec 56

/-- `H` after the `n`-th reset event: unspecified (R39, R190), so a free value. Log entry 5. -/
opaque Config.hAfterReset : Nat → Eight
/-- `R` after the `n`-th reset event: unspecified (R39, R190). Log entry 5. -/
opaque Config.rAfterReset : Nat → Eight
/-- `W` after the `n`-th reset event: unspecified (R39, R190). Log entry 5. -/
opaque Config.wAfterReset : Nat → Schedule
/-- `B` after the `n`-th reset event: unspecified (R39, R190). Log entry 5. -/
opaque Config.bAfterReset : Nat → Block
/-- `LREG` after the `n`-th reset event: unspecified (R39, R190). Log entry 5. -/
opaque Config.lregAfterReset : Nat → BitVec 64
/-- `LB` after the `n`-th reset event: unspecified (R39, R190). Log entry 5. -/
opaque Config.lbAfterReset : Nat → BitVec 64
/-- `PB` after the `n`-th reset event: unspecified (R39, R190). Log entry 5. -/
opaque Config.pbAfterReset : Nat → BitVec 65
/-- `NB` after the `n`-th reset event: unspecified (R39, R190). Log entry 5. -/
opaque Config.nbAfterReset : Nat → BitVec 56
/-- `J` after the `n`-th reset event: unspecified (R39, R190). Log entry 5. -/
opaque Config.jAfterReset : Nat → BitVec 56

end Sys2Proof
end

