-- ==== Sys2Proof/Syntax.lean ====
section
/-! DEFINITION. Syntax: every row of spec/opcode_table.json is one constructor of `Instr`; the sequencer's phases (R73);
a host access as the host makes it (R71); and the three encoded forms (R70). -/

namespace Sys2Proof

/-- The 14 values of `PH` (R73). -/
inductive Phase where
  | idle | chk | padl | segc | init | ldb | ldw | exp | ldr | rnd | fold | asm | fin | errh
deriving DecidableEq, Repr

/-- A host access to the register window (R71): write or read, its width in bits, its byte offset from the start of the
window, and the word written (of no account in a read). Every width and offset can be presented, so that those the spec
reserves are refused by name (R80). -/
structure Access where
  we   : Bool
  bits : Nat
  off  : Nat
  data : Word
deriving DecidableEq, Repr

/-- What the engine decodes, one constructor per format (R70). -/
inductive Encoded where
  /-- A-format (R71): the 7-bit selector `we ‖ off[5:0]` and the data word. -/
  | access (sel : BitVec 7) (data : Word)
  /-- C-format (R72): the word written to `CMD`. -/
  | command (w : Word)
  /-- U-format (R73): `PH ‖ T`. -/
  | seq (q : BitVec 10)
deriving DecidableEq, Repr

/-- The operations (R75, R76, R77). A write carries its data word, an indexed micro-operation its index `T`. -/
inductive Instr where
  | wrCmd (v : Word)
  | wrStatus (v : Word)
  | wrLenLo (v : Word)
  | wrLenHi (v : Word)
  | wrDigest0 (v : Word)
  | wrDigest1 (v : Word)
  | wrDigest2 (v : Word)
  | wrDigest3 (v : Word)
  | wrDigest4 (v : Word)
  | wrDigest5 (v : Word)
  | wrDigest6 (v : Word)
  | wrDigest7 (v : Word)
  | rdCmd
  | rdStatus
  | rdLenLo
  | rdLenHi
  | rdDigest0
  | rdDigest1
  | rdDigest2
  | rdDigest3
  | rdDigest4
  | rdDigest5
  | rdDigest6
  | rdDigest7
  | digest
  | idle
  | chk
  | padl
  | segc
  | init
  | ldb
  | ldwT (t : BitVec 6)
  | expT (t : BitVec 6)
  | ldr
  | rndT (t : BitVec 6)
  | fold
  | asm
  | fin
  | errh
deriving DecidableEq, Repr

end Sys2Proof
end

