-- ==== Sys2Proof/WellFormed.lean ====
section
/-! DEFINITION. Which instructions are well formed: the index ranges of R73 (LDW has `T` in 0..15, EXP `T` in 16..63; every
other field may hold any value of its width). -/

namespace Sys2Proof

/-- The side conditions R73, R77 and R80 put on an operation's index. -/
def Instr.wellFormed : Instr → Bool
  | .wrCmd _ => true
  | .wrStatus _ => true
  | .wrLenLo _ => true
  | .wrLenHi _ => true
  | .wrDigest0 _ => true
  | .wrDigest1 _ => true
  | .wrDigest2 _ => true
  | .wrDigest3 _ => true
  | .wrDigest4 _ => true
  | .wrDigest5 _ => true
  | .wrDigest6 _ => true
  | .wrDigest7 _ => true
  | .rdCmd => true
  | .rdStatus => true
  | .rdLenLo => true
  | .rdLenHi => true
  | .rdDigest0 => true
  | .rdDigest1 => true
  | .rdDigest2 => true
  | .rdDigest3 => true
  | .rdDigest4 => true
  | .rdDigest5 => true
  | .rdDigest6 => true
  | .rdDigest7 => true
  | .digest => true
  | .idle => true
  | .chk => true
  | .padl => true
  | .segc => true
  | .init => true
  | .ldb => true
  | .ldwT t => t.toNat < 16
  | .expT t => 16 ≤ t.toNat
  | .ldr => true
  | .rndT _ => true
  | .fold => true
  | .asm => true
  | .fin => true
  | .errh => true

end Sys2Proof
end

