-- ==== Sys2Proof/Decode.lean ====
section
/-! DEFINITION. Decoding of the three formats (R70 to R81), total, rejecting by name; after it the encoder, written from
the same tables R73, R75 and R76. -/

namespace Sys2Proof

/-- Why an encoding or an access is reserved (R80). Each errs towards unprovable: safe. -/
inductive Reject where
  /-- An access that is not 32 bits wide (R59, R80). -/
  | accessWidth
  /-- An access at an offset outside the 64-byte window (R80). -/
  | outsideWindow
  /-- A selector with `off[1:0]` other than 00 (R59, R80). -/
  | misaligned
  /-- Slots 12 to 15, offsets 0x30 to 0x3C (R80, R102). -/
  | reservedSlot
  /-- A command word other than 0x00000001 (R80, R102). -/
  | reservedCommand
  /-- A `SEQ` value outside the table of R73 (R80). -/
  | reservedSeq
deriving DecidableEq, Repr

/-- A-format (R71, R75): the selector written as the table writes it. -/
def decodeAccess (sel : BitVec 7) (v : Word) : Except Reject Instr :=
  match sel with
  | 0b1000000#7 => .ok (.wrCmd v)
  | 0b1000100#7 => .ok (.wrStatus v)
  | 0b1001000#7 => .ok (.wrLenLo v)
  | 0b1001100#7 => .ok (.wrLenHi v)
  | 0b1010000#7 => .ok (.wrDigest0 v)
  | 0b1010100#7 => .ok (.wrDigest1 v)
  | 0b1011000#7 => .ok (.wrDigest2 v)
  | 0b1011100#7 => .ok (.wrDigest3 v)
  | 0b1100000#7 => .ok (.wrDigest4 v)
  | 0b1100100#7 => .ok (.wrDigest5 v)
  | 0b1101000#7 => .ok (.wrDigest6 v)
  | 0b1101100#7 => .ok (.wrDigest7 v)
  | 0b0000000#7 => .ok .rdCmd
  | 0b0000100#7 => .ok .rdStatus
  | 0b0001000#7 => .ok .rdLenLo
  | 0b0001100#7 => .ok .rdLenHi
  | 0b0010000#7 => .ok .rdDigest0
  | 0b0010100#7 => .ok .rdDigest1
  | 0b0011000#7 => .ok .rdDigest2
  | 0b0011100#7 => .ok .rdDigest3
  | 0b0100000#7 => .ok .rdDigest4
  | 0b0100100#7 => .ok .rdDigest5
  | 0b0101000#7 => .ok .rdDigest6
  | 0b0101100#7 => .ok .rdDigest7
  | s => if s.extractLsb' 0 2 = 0#2 then .error .reservedSlot else .error .misaligned

/-- C-format (R72, R76): the one command word. -/
def decodeCommand (w : Word) : Except Reject Instr :=
  if w = 0x00000001#32 then .ok .digest else .error .reservedCommand

/-- A phase without an index is decoded only with `T = 0` (R80). -/
def withoutIndex (t : BitVec 6) (i : Instr) : Except Reject Instr :=
  if t = 0#6 then .ok i else .error .reservedSeq

/-- U-format (R73, R77), from `PH` and `T`. -/
def decodeSeq (ph : BitVec 4) (t : BitVec 6) : Except Reject Instr :=
  match ph with
  | 0x0#4 => withoutIndex t .idle
  | 0x1#4 => withoutIndex t .chk
  | 0x2#4 => withoutIndex t .padl
  | 0x3#4 => withoutIndex t .segc
  | 0x4#4 => withoutIndex t .init
  | 0x5#4 => withoutIndex t .ldb
  | 0x6#4 => if t.toNat < 16 then .ok (.ldwT t) else .error .reservedSeq
  | 0x7#4 => if 16 ≤ t.toNat then .ok (.expT t) else .error .reservedSeq
  | 0x8#4 => withoutIndex t .ldr
  | 0x9#4 => .ok (.rndT t)
  | 0xA#4 => withoutIndex t .fold
  | 0xB#4 => withoutIndex t .asm
  | 0xC#4 => withoutIndex t .fin
  | 0xD#4 => withoutIndex t .errh
  | _ => .error .reservedSeq

/-- Decoding is total and the three formats are decoded apart (R79). -/
def decode : Encoded → Except Reject Instr
  | .access sel v => decodeAccess sel v
  | .command w => decodeCommand w
  | .seq q => decodeSeq (q.extractLsb' 6 4) (q.extractLsb' 0 6)

/-- The selector `we ‖ off[5:0]` of an access to an offset inside the window (R71). -/
def selectorOf (we : Bool) (off : Nat) : BitVec 7 := BitVec.ofBool we ++ BitVec.ofNat 6 off

/-- A host access as the host makes it: 32 bits wide and inside the window, or refused by name (R59, R80); then its
selector is decoded. -/
def decodeHost (a : Access) : Except Reject Instr :=
  if a.bits ≠ 32 then .error .accessWidth
  else if 64 ≤ a.off then .error .outsideWindow
  else decode (.access (selectorOf a.we a.off) a.data)

/-- The codes of the phases (R73). -/
def Phase.code : Phase → BitVec 4
  | .idle => 0x0#4
  | .chk => 0x1#4
  | .padl => 0x2#4
  | .segc => 0x3#4
  | .init => 0x4#4
  | .ldb => 0x5#4
  | .ldw => 0x6#4
  | .exp => 0x7#4
  | .ldr => 0x8#4
  | .rnd => 0x9#4
  | .fold => 0xA#4
  | .asm => 0xB#4
  | .fin => 0xC#4
  | .errh => 0xD#4

/-- `SEQ = PH ‖ T` (R73). -/
def seqWord (ph : BitVec 4) (t : BitVec 6) : BitVec 10 := ph ++ t

/-- The encoding of each operation (R73, R75, R76): register slot `off div 4` of a read or a write, the command word,
or phase and index. A read carries no data word: 0 stands there. -/
def encode : Instr → Encoded
  | .wrCmd v => .access (selectorOf true 0x00) v
  | .wrStatus v => .access (selectorOf true 0x04) v
  | .wrLenLo v => .access (selectorOf true 0x08) v
  | .wrLenHi v => .access (selectorOf true 0x0C) v
  | .wrDigest0 v => .access (selectorOf true 0x10) v
  | .wrDigest1 v => .access (selectorOf true 0x14) v
  | .wrDigest2 v => .access (selectorOf true 0x18) v
  | .wrDigest3 v => .access (selectorOf true 0x1C) v
  | .wrDigest4 v => .access (selectorOf true 0x20) v
  | .wrDigest5 v => .access (selectorOf true 0x24) v
  | .wrDigest6 v => .access (selectorOf true 0x28) v
  | .wrDigest7 v => .access (selectorOf true 0x2C) v
  | .rdCmd => .access (selectorOf false 0x00) 0#32
  | .rdStatus => .access (selectorOf false 0x04) 0#32
  | .rdLenLo => .access (selectorOf false 0x08) 0#32
  | .rdLenHi => .access (selectorOf false 0x0C) 0#32
  | .rdDigest0 => .access (selectorOf false 0x10) 0#32
  | .rdDigest1 => .access (selectorOf false 0x14) 0#32
  | .rdDigest2 => .access (selectorOf false 0x18) 0#32
  | .rdDigest3 => .access (selectorOf false 0x1C) 0#32
  | .rdDigest4 => .access (selectorOf false 0x20) 0#32
  | .rdDigest5 => .access (selectorOf false 0x24) 0#32
  | .rdDigest6 => .access (selectorOf false 0x28) 0#32
  | .rdDigest7 => .access (selectorOf false 0x2C) 0#32
  | .digest => .command 0x00000001#32
  | .idle => .seq (seqWord Phase.idle.code 0#6)
  | .chk => .seq (seqWord Phase.chk.code 0#6)
  | .padl => .seq (seqWord Phase.padl.code 0#6)
  | .segc => .seq (seqWord Phase.segc.code 0#6)
  | .init => .seq (seqWord Phase.init.code 0#6)
  | .ldb => .seq (seqWord Phase.ldb.code 0#6)
  | .ldwT t => .seq (seqWord Phase.ldw.code t)
  | .expT t => .seq (seqWord Phase.exp.code t)
  | .ldr => .seq (seqWord Phase.ldr.code 0#6)
  | .rndT t => .seq (seqWord Phase.rnd.code t)
  | .fold => .seq (seqWord Phase.fold.code 0#6)
  | .asm => .seq (seqWord Phase.asm.code 0#6)
  | .fin => .seq (seqWord Phase.fin.code 0#6)
  | .errh => .seq (seqWord Phase.errh.code 0#6)

/-- The encoded form that `nbits` (a table row's width, in whole bytes or as the row gives it) and the number `w` stand
for: one byte or 7 bits an A-format selector with a data word of zeros, 32 bits a command word, 10 bits or two bytes
`SEQ`; nothing where `w` has a bit outside the format. Log entry 15. -/
def encodedOfTable (nbits w : Nat) : Option Encoded :=
  match nbits with
  | 7 | 8 => if w < 2 ^ 7 then some (.access (BitVec.ofNat 7 w) 0#32) else none
  | 32 => if w < 2 ^ 32 then some (.command (BitVec.ofNat 32 w)) else none
  | 10 | 16 => if w < 2 ^ 10 then some (.seq (BitVec.ofNat 10 w)) else none
  | _ => none

/-- What the decoder reads from an opcode-table word. Log entry 15. -/
def decodeTableWord (nbits w : Nat) : Option Instr :=
  match encodedOfTable nbits w with
  | some e => (decode e).toOption
  | none => none

end Sys2Proof
end

