-- ==== Sys2Proof/Machine/State.lean ====
section
/-! DEFINITION. The state of the engine (R20), the turns of the two agents (R5, R6, R205), the reasons a step can stop,
and the state after reset (R39, R190). -/

namespace Sys2Proof.Machine

/-- One turn of one agent (R5, R205). -/
inductive Turn where
  /-- The sequencer takes its step (R78). -/
  | sequencer
  /-- The host makes one register access (R90). -/
  | host (a : Access)
  /-- The host puts byte `b` at M-space offset `p` (R52, R192 step 1). -/
  | place (p : Nat) (b : Byte)
  /-- The host frees the memory behind M-space offset `p` (R64 point 2): no byte is there any more. -/
  | free (p : Nat)
  /-- The reset event, from outside the engine (R190). -/
  | reset
deriving DecidableEq, Repr

/-- Everything the spec gives the machine (R20), the message memory the host owns (R52), and three fields of the model's
own: `agenda` (the interleaving of the two agents as data, log entry 1), `answers` (what host reads were handed back,
newest first, log entry 3) and `resets` (how many reset events there were, log entry 5). -/
structure State where
  /-- Hash State `H[0..7]` (R21). -/
  h : Eight
  /-- Working Registers `R[0..7]` = `a..h` (R22). -/
  r : Eight
  /-- Message Schedule `W[0..63]` (R23). -/
  w : Schedule
  /-- The current Block `B[0..63]` (R24). -/
  b : Block
  /-- The digest output register `DG[0..31]` (R25). -/
  dg : DigestBytes
  /-- `LEN`, the length in bytes as the host programs it (R26). -/
  len : BitVec 64
  /-- `LREG`, the latched length in bytes (R27). -/
  lreg : BitVec 64
  /-- `LB`, the length in bits (R27). -/
  lb : BitVec 64
  /-- `PH`, the sequencer's phase code (R28). -/
  ph : BitVec 4
  /-- `T`, the sequencer's index (R28). -/
  t : BitVec 6
  /-- `PB`, the padded length in bits (R29). -/
  pb : BitVec 65
  /-- `NB`, the number of blocks (R29). -/
  nb : BitVec 56
  /-- `J`, the index of the current block (R29). -/
  j : BitVec 56
  /-- `ECODE`, the error code of the last command (R31). -/
  ecode : BitVec 4
  /-- The bytes that lie in the M-space (R52), sorted by offset. -/
  mem : List Host.Cell
  /-- The turns to come, the next one first; when it is empty the sequencer moves (R203). -/
  agenda : List Turn
  /-- The words handed back to host reads, newest first (R71). -/
  answers : List Word
  /-- The number of reset events so far. -/
  resets : Nat
deriving DecidableEq, Repr

/-- The model's own faults. The engine's two errors are no faults of the model: it runs on into ERRH (R175). -/
inductive Fault where
  /-- Raised by LDB: it reads an M-space offset that holds no byte. The spec calls the engine stuck there (R56,
  `93_implementation_defined.md` U7). Safe. -/
  | messageByteUnanswered
  /-- Raised by LDB and by the host's placing of a byte: the M-space has no offset at or above 2^61 (R52). Safe. -/
  | outsideMSpace
deriving DecidableEq, Repr

/-- Where the spec gives no meaning. -/
inductive Refusal where
  /-- Raised by no arm: every instruction has its meaning. Safe. -/
  | notModelled (mnemonic : String)
  /-- Raised by a step whose access, command word or `SEQ` value the spec reserves (R80, R102), with the reason. Safe. -/
  | reserved (why : Reject)
  /-- Raised by a host turn that would change a byte of the message while the engine is busy: the host has no such move
  (R199, R205). A race. The assumption that no host does it is unsafe and is log entry 8. -/
  | messageWriteWhileBusy
deriving DecidableEq, Repr

/-- The machine right after reset (R39, R190). The registers whose reset value R39 calls unspecified hold zero: DESIGN
CHOICE (log entry 4), unsafe for a claim that rests on the zero. -/
def State.reset : State where
  h := Vector.replicate 8 0#32
  r := Vector.replicate 8 0#32
  w := Vector.replicate 64 0#32
  b := Vector.replicate 64 0#8
  dg := Vector.replicate 32 0#8
  len := 0#64
  lreg := 0#64
  lb := 0#64
  ph := 0x0#4
  t := 0#6
  pb := 0#65
  nb := 0#56
  j := 0#56
  ecode := 0#4
  mem := []
  agenda := []
  answers := []
  resets := 0

end Sys2Proof.Machine
end

