-- ==== Sys2Proof/Machine/Flags.lean ====
section
/-! DEFINITION. The status flags (R30): functions of `PH` and `ECODE` with no storage of their own. No data operation sets
a flag (R10). -/

namespace Sys2Proof.Machine

/-- DONE: `PH = FIN` (R30). -/
def State.done (s : State) : Bool := s.ph == Phase.fin.code

/-- ERR: `PH = ERRH` (R30). -/
def State.err (s : State) : Bool := s.ph == Phase.errh.code

/-- BUSY: `PH` is none of IDLE, FIN, ERRH (R30, R90). -/
def State.busy (s : State) : Bool := !(s.ph == Phase.idle.code || s.ph == Phase.fin.code || s.ph == Phase.errh.code)

/-- The word `RD STATUS` returns (R30, R98): bits 31:8 zero, ECODE, bit 3 zero, ERR, DONE, BUSY. -/
def State.status (s : State) : Word :=
  (0#24 ++ s.ecode ++ 0#1 ++ BitVec.ofBool s.err ++ BitVec.ofBool s.done ++ BitVec.ofBool s.busy : BitVec 32)

end Sys2Proof.Machine
end

