-- ==== Sys2Proof/Machine/Operands.lean ====
section
/-! DEFINITION. The primitive operations on operands (R10 to R14): wrapping addition, rotation and shift by constant
amounts, and the big-endian assembly and disassembly of bytes. Bitwise and, xor and not (R13) are those of `BitVec`. -/

namespace Sys2Proof.Machine

/-- `add32` (R10): addition modulo 2^32. -/
def add32 (x y : Word) : Word := BitVec.ofNat 32 (x.toNat + y.toNat)

/-- `ROTR(x, n)` (R11), for `n` in 1..31 only. -/
def rotr (x : Word) (n : Amount) : Word := (x >>> n.val) ||| (x <<< (32 - n.val))

/-- `SHR(x, n)` (R12), zero-filling, for `n` in 1..31 only. -/
def shr (x : Word) (n : Amount) : Word := x >>> n.val

/-- `be32` (R14): the first byte is the most significant. -/
def be32 (b0 b1 b2 b3 : Byte) : Word := b0 ++ b1 ++ b2 ++ b3

/-- `byte_be32(w, i)` (R14): byte 0 is the most significant. -/
def byteBe32 (w : Word) (i : Fin 4) : Byte := w.extractLsb' (24 - 8 * i.val) 8

/-- `byte_be64(v, q)` (R14) for `q` in 0..7; outside them R14 gives no value and a free value stands there (log entry 9). -/
def byteBe64 (v : BitVec 64) (q : Nat) : Byte :=
  if q < 8 then v.extractLsb' (56 - 8 * q) 8 else Config.byteBe64Outside v q

/-- The word in the four bytes from `4 * t` of a block (R74, R133). -/
def blockWord (b : Block) (t : Fin 16) : Word :=
  be32 (b[4 * t.val]'(by omega)) (b[4 * t.val + 1]'(by omega)) (b[4 * t.val + 2]'(by omega)) (b[4 * t.val + 3]'(by omega))

/-- `be32(DG[4k..4k+3])`, what `DIGESTk` reads (R33, R74). -/
def digestWord (d : DigestBytes) (k : Fin 8) : Word :=
  be32 (d[4 * k.val]'(by omega)) (d[4 * k.val + 1]'(by omega)) (d[4 * k.val + 2]'(by omega)) (d[4 * k.val + 3]'(by omega))

/-- `LEN` with its low half replaced (R91): `LEN[63:32] ‖ v`. -/
def withLowHalf (len : BitVec 64) (v : Word) : BitVec 64 := len.extractLsb' 32 32 ++ v

/-- `LEN` with its high half replaced (R92): `v ‖ LEN[31:0]`. -/
def withHighHalf (len : BitVec 64) (v : Word) : BitVec 64 := v ++ len.extractLsb' 0 32

end Sys2Proof.Machine
end

