-- ==== Sys2Proof/Machine/Functions.lean ====
section
/-! DEFINITION. The pure functions the engine implements, as the spec defines them: schedule (R130 to R132), round and
compression (R140 to R145), the chain over the blocks (R150), padding and segmentation (R110 to R114), the digest
(R160, R161). -/

namespace Sys2Proof.Machine

/-! ### Message schedule -/

/-- `ssig0` (R130). -/
def ssig0 (x : Word) : Word := rotr x ⟨7, by decide⟩ ^^^ rotr x ⟨18, by decide⟩ ^^^ shr x ⟨3, by decide⟩

/-- `ssig1` (R131). -/
def ssig1 (x : Word) : Word := rotr x ⟨17, by decide⟩ ^^^ rotr x ⟨19, by decide⟩ ^^^ shr x ⟨10, by decide⟩

/-- The recurrence of R132 on the four earlier entries `W[i-16]`, `W[i-15]`, `W[i-7]`, `W[i-2]`. -/
def recurrence (w16 w15 w7 w2 : Word) : Word := add32 (add32 (add32 w16 (ssig0 w15)) w7) (ssig1 w2)

/-- Entry `n` of the schedule of block `b` (R132), from the `n` entries before it. -/
def scheduleEntry (b : Block) {n : Nat} (w : Vector Word n) : Word :=
  if h : n < 16 then blockWord b ⟨n, h⟩
  else recurrence (w[n - 16]'(by omega)) (w[n - 15]'(by omega)) (w[n - 7]'(by omega)) (w[n - 2]'(by omega))

/-- The first `n` entries of the schedule of block `b` (R132). -/
def expandTo (b : Block) : (n : Nat) → Vector Word n
  | 0 => #v[]
  | n + 1 => (expandTo b n).push (scheduleEntry b (expandTo b n))

/-- `Expand(block)` (R132). -/
def expand (b : Block) : Schedule := expandTo b 64

/-! ### Compression -/

/-- `bsig0` (R140). -/
def bsig0 (x : Word) : Word := rotr x ⟨2, by decide⟩ ^^^ rotr x ⟨13, by decide⟩ ^^^ rotr x ⟨22, by decide⟩

/-- `bsig1` (R141). -/
def bsig1 (x : Word) : Word := rotr x ⟨6, by decide⟩ ^^^ rotr x ⟨11, by decide⟩ ^^^ rotr x ⟨25, by decide⟩

/-- `Ch` (R142). -/
def ch (e f g : Word) : Word := (e &&& f) ^^^ (~~~e &&& g)

/-- `Maj` (R143). -/
def maj (a b c : Word) : Word := (a &&& b) ^^^ (a &&& c) ^^^ (b &&& c)

/-- `T1` of a round (R144). -/
def temp1 (t : BitVec 6) (r : Eight) (w : Word) : Word :=
  add32 (add32 (add32 (add32 r[7] (bsig1 r[4])) (ch r[4] r[5] r[6])) (roundConstant t)) w

/-- `T2` of a round (R144). -/
def temp2 (r : Eight) : Word := add32 (bsig0 r[0]) (maj r[0] r[1] r[2])

/-- `Round(t, (a,...,h), w)` (R144); all eight right-hand sides are values before the round. -/
def round (t : BitVec 6) (r : Eight) (w : Word) : Eight :=
  #v[add32 (temp1 t r w) (temp2 r), r[0], r[1], r[2], add32 r[3] (temp1 t r w), r[4], r[5], r[6]]

/-- The registers `r_n` after the first `n` rounds (R145), for `n` up to 64. -/
def rounds (w : Schedule) (r : Eight) : Nat → Eight
  | 0 => r
  | n + 1 => round (BitVec.ofNat 6 n) (rounds w r n) (at64 w (BitVec.ofNat 6 n))

/-- The fold (R145, R149): `H[k] + finalRegister[k]` modulo 2^32 for each `k`. -/
def foldInto (h r : Eight) : Eight := Vector.ofFn fun k => add32 h[k] r[k]

/-- `Compress(Hin, block)` (R145). -/
def compress (hin : Eight) (b : Block) : Eight := foldInto hin (rounds (expand b) hin 64)

/-- `HashBlocks` (R150): the chain over the blocks, starting from `IV`. -/
def hashBlocks (bs : List Block) : Eight := bs.foldl compress initialHash

/-! ### Padding and segmentation -/

/-- `512 * ceil((Lb + 65) / 512)` in unbounded arithmetic (R112, R117). -/
def paddedBits (lb : Nat) : Nat := 512 * ((lb + 65 + 511) / 512)

/-- `N` for a message of `len` bytes (R112). -/
def blockCount (len : Nat) : Nat := paddedBits (8 * len) / 512

/-- Bit `7 - i mod 8` of byte `i div 8` of a byte sequence (R55); past its end there is no bit and `false` stands there. -/
def messageBit (m : List Byte) (i : Nat) : Bool := (m.getD (i / 8) 0#8).getLsbD (7 - i % 8)

/-- Bit `i` of the Padded Bit Sequence of `m` (R111), for `i` below `PBITS`. -/
def paddedBit (m : List Byte) (i : Nat) : Bool :=
  if i < 8 * m.length then messageBit m i
  else if i = 8 * m.length then true
  else if i < paddedBits (8 * m.length) - 64 then false
  else (BitVec.ofNat 64 (8 * m.length)).getLsbD (63 - (i - (paddedBits (8 * m.length) - 64)))

/-- `PadBits(m)` (R111). -/
def padBits (m : List Byte) : List Bool := (List.range (paddedBits (8 * m.length))).map (paddedBit m)

/-- `PadByte(m, p)` (R113), for `p` below `64 * N`. -/
def padByte (m : List Byte) (p : Nat) : Byte :=
  if p < m.length then m.getD p 0#8
  else if p = m.length then 0x80#8
  else if p + 8 < 64 * blockCount m.length then 0x00#8
  else byteBe64 (BitVec.ofNat 64 (8 * m.length)) (p + 8 - 64 * blockCount m.length)

/-- The byte in the eight bits from index `i` of a bit sequence, the first of them the most significant (R55). -/
def byteOfBits (p : List Bool) (i : Nat) : Byte :=
  (List.range 8).foldl (fun acc q => acc.shiftConcat (p.getD (i + q) false)) 0#8

/-- `Block_j` of a bit sequence, as 64 bytes (R114). -/
def blockOfBits (p : List Bool) (j : Nat) : Block := Vector.ofFn fun k => byteOfBits p (512 * j + 8 * k.val)

/-- The engine's two errors (R170, R171); the taxonomy is closed (R172). -/
inductive EngineError where
  | messageTooLarge
  | invalidPaddingLength
deriving DecidableEq, Repr

/-- `Segment(P)` (R114): 512-bit blocks in order, or InvalidPaddingLength. -/
def segment (p : List Bool) : Except EngineError (List Block) :=
  if p.length % 512 ≠ 0 then .error .invalidPaddingLength
  else .ok ((List.range (p.length / 512)).map (blockOfBits p))

/-! ### Digest -/

/-- `Assemble(H)` (R160): byte `4k + i` is `byte_be32(H[k], i)`. -/
def assemble (h : Eight) : DigestBytes :=
  Vector.ofFn fun n => byteBe32 (h[n.val / 4]'(by omega)) ⟨n.val % 4, by omega⟩

/-- `Digest(m)` (R161): the composition of the five components. -/
def digestOf (m : List Byte) : Except EngineError DigestBytes :=
  if 2 ^ 61 ≤ m.length then .error .messageTooLarge
  else match segment (padBits m) with
    | .error e => .error e
    | .ok bs => .ok (assemble (hashBlocks bs))

end Sys2Proof.Machine
end

