-- ==== Sys2Proof/Machine/Ops.lean ====
section
/-! DEFINITION. The named operations: the M-space as a sorted list of bytes (R52, R56), one update per register, error
entry and what ends an error (R175, R177), command acceptance (R96), and the moves of the agents that are no
instruction (R190, R192, R199, R205). -/

namespace Sys2Proof.Machine

/-! ### The M-space -/

/-- The number of M-space offsets (R52). -/
def mspaceSize : Nat := 2 ^ 61

/-- The byte at offset `p`, if one is there. An unlisted offset holds no byte (log entry 6). -/
def Memory.read : List Host.Cell → Nat → Option Byte
  | [], _ => none
  | c :: rest, p => if c.1 = p then some c.2 else Memory.read rest p

/-- The memory with byte `b` at offset `p`; the list stays sorted. -/
def Memory.write : List Host.Cell → Nat → Byte → List Host.Cell
  | [], p, b => [(p, b)]
  | c :: rest, p, b =>
    if p < c.1 then (p, b) :: c :: rest
    else if p = c.1 then (p, b) :: rest
    else c :: Memory.write rest p b

/-- The memory with no byte at offset `p`. -/
def Memory.erase : List Host.Cell → Nat → List Host.Cell
  | [], _ => []
  | c :: rest, p => if c.1 = p then rest else c :: Memory.erase rest p

/-- The canonical form: offsets strictly rising, each inside the M-space. -/
abbrev Memory.wf (m : List Host.Cell) : Prop :=
  m.Pairwise (fun c d => c.1 < d.1) ∧ ∀ c ∈ m, c.1 < mspaceSize

/-- `MemRead(M, p, 1)` (R56): one byte, no side effect. An offset outside the M-space, or one the platform has no byte
for, stops the engine (R52, R56; log entries 6 and 7). -/
def memRead (m : List Host.Cell) (p : Nat) : Except Fault Byte :=
  if p < mspaceSize then
    match Memory.read m p with
    | some b => .ok b
    | none => .error .messageByteUnanswered
  else .error .outsideMSpace

/-! ### Register updates -/

/-- `SEQ <- (P, t)` (R15, R28). -/
def State.setSeq (s : State) (p : Phase) (t : BitVec 6) : State := { s with ph := p.code, t := t }
/-- Write of all of `H` (R21). -/
def State.setH (s : State) (v : Eight) : State := { s with h := v }
/-- Write of all of `R` (R22). -/
def State.setR (s : State) (v : Eight) : State := { s with r := v }
/-- Write of one entry of `W` (R23). -/
def State.setW (s : State) (t : BitVec 6) (v : Word) : State := { s with w := s.w.set t.toNat v t.isLt }
/-- Write of all of `B` (R24). -/
def State.setB (s : State) (v : Block) : State := { s with b := v }
/-- Write of all of `DG` (R25). -/
def State.setDg (s : State) (v : DigestBytes) : State := { s with dg := v }
/-- Write of `LEN` (R26). -/
def State.setLen (s : State) (v : BitVec 64) : State := { s with len := v }
/-- Write of `LREG` (R27). -/
def State.setLreg (s : State) (v : BitVec 64) : State := { s with lreg := v }
/-- Write of `LB` (R27). -/
def State.setLb (s : State) (v : BitVec 64) : State := { s with lb := v }
/-- Write of `PB` (R29). -/
def State.setPb (s : State) (v : BitVec 65) : State := { s with pb := v }
/-- Write of `NB` (R29). -/
def State.setNb (s : State) (v : BitVec 56) : State := { s with nb := v }
/-- Write of `J` (R29). -/
def State.setJ (s : State) (v : BitVec 56) : State := { s with j := v }
/-- Write of `ECODE` (R31). -/
def State.setEcode (s : State) (v : BitVec 4) : State := { s with ecode := v }
/-- The host's change of the message memory (R52). -/
def State.setMem (s : State) (m : List Host.Cell) : State := { s with mem := m }
/-- A host read is handed the word `v` (R71); the engine's state does not change (R60). Log entry 3. -/
def State.answer (s : State) (v : Word) : State := { s with answers := v :: s.answers }

/-! ### Errors and the command -/

/-- The error codes (R173). -/
def EngineError.code : EngineError → BitVec 4
  | .messageTooLarge => 1#4
  | .invalidPaddingLength => 2#4

/-- Error entry, the engine's only exception (R175): the code is recorded, the sequencer halts in ERRH, nothing else
changes and nothing is saved. -/
def State.raise (s : State) (e : EngineError) : State := (s.setEcode e.code).setSeq .errh 0#6

/-- Acceptance of a DIGEST command (R96), which is also all there is of a return from an error (R177): `LREG` latches
`LEN`, `ECODE` and `DG` are cleared, the sequencer starts at CHK. -/
def State.accept (s : State) : State :=
  (((s.setLreg s.len).setEcode 0#4).setDg (Vector.replicate 32 0#8)).setSeq .chk 0#6

/-- The DIGEST command: accepted when the engine is not busy (R96), ignored while it is (R97). -/
def digestCommand (s : State) : Host.Outcome State Fault Refusal :=
  if s.busy then .next s else .next s.accept

/-- A host write of `LEN`: no effect while busy (R91, R92). -/
def writeLen (v : BitVec 64) (s : State) : Host.Outcome State Fault Refusal :=
  if s.busy then .next s else .next (s.setLen v)

/-- A host write to a read-only register: no effect, in any state (R100). -/
def writeReadOnly (_v : Word) (s : State) : Host.Outcome State Fault Refusal := .next s

/-- A host read of `DIGESTk` (R99). -/
def readDigest (k : Fin 8) (s : State) : Host.Outcome State Fault Refusal := .next (s.answer (digestWord s.dg k))

/-- A halt phase: the sequencer has no step (R78, R104, R164, R176), so its turn leaves the state as it is. Log entry 2. -/
def halt (s : State) : Host.Outcome State Fault Refusal := .next s

/-! ### Loading a block -/

/-- The bytes `f 0, ..., f (n-1)`, asked for in ascending order; the first fault ends the loading. -/
def collect (f : Nat → Except Fault Byte) : (n : Nat) → Except Fault (Vector Byte n)
  | 0 => .ok #v[]
  | n + 1 =>
    match collect f n with
    | .error e => .error e
    | .ok v =>
      match f n with
      | .error e => .error e
      | .ok b => .ok (v.push b)

/-- What LDB writes to `B[k]` (R119), with `p = 64 * J + k` in unbounded arithmetic; `p < 64 * N - 8` is written without a
subtraction. -/
def blockByte (s : State) (k : Nat) : Except Fault Byte :=
  let p := 64 * s.j.toNat + k
  if p < s.lreg.toNat then memRead s.mem p
  else if p = s.lreg.toNat then .ok 0x80#8
  else if p + 8 < 64 * s.nb.toNat then .ok 0x00#8
  else .ok (byteBe64 s.lb (p + 8 - 64 * s.nb.toNat))

/-! ### Moves that are no instruction -/

/-- The reset event (R190). The registers with an unspecified value after reset (R39) get free values (log entry 5); the
M-space, the host's turns and what it was handed are not the engine's. -/
def State.resetEvent (s : State) : State where
  h := Config.hAfterReset s.resets
  r := Config.rAfterReset s.resets
  w := Config.wAfterReset s.resets
  b := Config.bAfterReset s.resets
  dg := Vector.replicate 32 0#8
  len := 0#64
  lreg := Config.lregAfterReset s.resets
  lb := Config.lbAfterReset s.resets
  ph := Phase.idle.code
  t := 0#6
  pb := Config.pbAfterReset s.resets
  nb := Config.nbAfterReset s.resets
  j := Config.jAfterReset s.resets
  ecode := 0#4
  mem := s.mem
  agenda := s.agenda
  answers := s.answers
  resets := s.resets + 1

/-- Is offset `p` one the host must leave alone now: a byte of the message of the running computation (R199)? -/
def State.holdsMessageByte (s : State) (p : Nat) : Bool := s.busy && decide (p < s.lreg.toNat)

/-- The host puts a byte into the M-space (R192 step 1), which it may not do to the message while the engine is busy (R199;
log entry 8). -/
def hostPlace (p : Nat) (b : Byte) (s : State) : Host.Outcome State Fault Refusal :=
  if mspaceSize ≤ p then .fault .outsideMSpace
  else if s.holdsMessageByte p then .refused .messageWriteWhileBusy
  else .next (s.setMem (Memory.write s.mem p b))

/-- The host frees the memory behind an offset (R64 point 2), under the same duty (R199; log entry 8). At an offset of 2^61
or more, where the spec gives the move no meaning, it completes, and a memory in canonical form stays as it is: DESIGN CHOICE
(log entry 18), safe. -/
def hostFree (p : Nat) (s : State) : Host.Outcome State Fault Refusal :=
  if s.holdsMessageByte p then .refused .messageWriteWhileBusy
  else .next (s.setMem (Memory.erase s.mem p))

/-! ### Whose turn it is, and what the engine decodes -/

/-- The turn to be taken: the first of the agenda, or the sequencer's when there is none (R203; log entry 1). -/
def State.turn (s : State) : Turn := s.agenda.head?.getD .sequencer

/-- The state with the present turn taken off the agenda. -/
def State.consume (s : State) : State := { s with agenda := s.agenda.tail }

/-- The operation the sequencer performs next: `SEQ`, decoded (R73, R78). -/
def State.microOp (s : State) : Except Reject Instr := decode (.seq (seqWord s.ph s.t))

/-- The state with the encoding `e` put where the next step takes its operation from: `SEQ` for a micro-operation, a host
access for the other formats (a command is the data word of a write to `CMD`, R72). Log entry 16. -/
def State.present (s : State) : Encoded → State
  | .seq q => { s with ph := q.extractLsb' 6 4, t := q.extractLsb' 0 6, agenda := .sequencer :: s.agenda }
  | .access sel v =>
    { s with agenda := .host ⟨sel.getLsbD 6, 32, (sel.extractLsb' 0 6).toNat, v⟩ :: s.agenda }
  | .command c => { s with agenda := .host ⟨true, 32, 0, c⟩ :: s.agenda }

end Sys2Proof.Machine
end

