-- ==== Sys2Proof/Machine/Assembler.lean ====
section
/-! DEFINITION. Digest Assembler: ASM (R162). -/

namespace Sys2Proof.Machine

/-- ASM (R162): all 32 digest bytes in one step. -/
def execAsm (s : State) : Host.Outcome State Fault Refusal := .next ((s.setDg (assemble s.h)).setSeq .fin 0#6)

end Sys2Proof.Machine
end

