-- ==== Sys2Proof/Machine/Compressor.lean ====
section
/-! DEFINITION. Compressor: INIT, LDR, RND t, FOLD (R146 to R149). -/

namespace Sys2Proof.Machine

/-- INIT (R146): the Hash State from `IV`, the block index 0. -/
def execInit (s : State) : Host.Outcome State Fault Refusal :=
  .next (((s.setH initialHash).setJ 0#56).setSeq .ldb 0#6)

/-- LDR (R147): the working registers from the Hash State. -/
def execLdr (s : State) : Host.Outcome State Fault Refusal := .next ((s.setR s.h).setSeq .rnd 0#6)

/-- RND t (R148): one round. -/
def execRnd (t : BitVec 6) (s : State) : Host.Outcome State Fault Refusal :=
  let s' := s.setR (round t s.r (at64 s.w t))
  if t.toNat < 63 then .next (s'.setSeq .rnd (t + 1#6)) else .next (s'.setSeq .fold 0#6)

/-- `J + 1` as the 56-bit register holds it; a value that does not fit has no meaning (R15, R149) and a free value stands
there (log entry 10). -/
def nextBlockIndex (j : BitVec 56) : BitVec 56 :=
  if j.toNat + 1 < 2 ^ 56 then j + 1#56 else Config.blockIndexPastEnd

/-- FOLD (R149): the fold, the next block index, and on to the next block or to ASM, by a test on `J` before the
increment and without wrap-around. -/
def execFold (s : State) : Host.Outcome State Fault Refusal :=
  let s' := (s.setH (foldInto s.h s.r)).setJ (nextBlockIndex s.j)
  if s.j.toNat + 1 = s.nb.toNat then .next (s'.setSeq .asm 0#6) else .next (s'.setSeq .ldb 0#6)

end Sys2Proof.Machine
end

