-- ==== Sys2Proof/Machine/Expander.lean ====
section
/-! DEFINITION. Schedule Expander: LDW t (R133) and EXP t (R134). An index outside R73's range is reserved (R80). -/

namespace Sys2Proof.Machine

/-- LDW t (R133): `W[t]` from the block, for `t` in 0..15. -/
def execLdw (t : BitVec 6) (s : State) : Host.Outcome State Fault Refusal :=
  if h : t.toNat < 16 then
    let s' := s.setW t (blockWord s.b ⟨t.toNat, h⟩)
    if t.toNat < 15 then .next (s'.setSeq .ldw (t + 1#6)) else .next (s'.setSeq .exp 16#6)
  else .refused (.reserved .reservedSeq)

/-- EXP t (R134): `W[t]` by the recurrence, for `t` in 16..63. -/
def execExp (t : BitVec 6) (s : State) : Host.Outcome State Fault Refusal :=
  if 16 ≤ t.toNat then
    let s' := s.setW t (recurrence (at64 s.w (t - 16#6)) (at64 s.w (t - 15#6)) (at64 s.w (t - 7#6)) (at64 s.w (t - 2#6)))
    if t.toNat < 63 then .next (s'.setSeq .exp (t + 1#6)) else .next (s'.setSeq .ldr 0#6)
  else .refused (.reserved .reservedSeq)

end Sys2Proof.Machine
end

