-- ==== Sys2Proof/Machine/Halt.lean ====
section
/-! DEFINITION. The three halt phases: the sequencer has no step in them (R78). -/

namespace Sys2Proof.Machine

/-- IDLE (R104): left only by an accepted DIGEST command. -/
def execIdle (s : State) : Host.Outcome State Fault Refusal := halt s

/-- FIN (R164): the digest stays in `DG` until a command is accepted or the engine is reset. -/
def execFin (s : State) : Host.Outcome State Fault Refusal := halt s

/-- ERRH (R176): the error stays visible until a command is accepted or the engine is reset. -/
def execErrh (s : State) : Host.Outcome State Fault Refusal := halt s

end Sys2Proof.Machine
end

