-- ==== Sys2Proof/Machine/HostAccess.lean ====
section
/-! DEFINITION. The host's register accesses (A-format, R90 to R100, R102) and the DIGEST command (C-format, R96, R97). -/

namespace Sys2Proof.Machine

/-- `WR CMD, v`: `v` is decoded as a command word at once (R32, R72); DIGEST is the only one (R96, R97), every other word
is reserved, busy or not (R80, R102). -/
def execWrCmd (v : Word) (s : State) : Host.Outcome State Fault Refusal :=
  match decodeCommand v with
  | .ok _ => digestCommand s
  | .error why => .refused (.reserved why)

/-- `WR STATUS, v`: no effect (R100). -/
def execWrStatus (v : Word) (s : State) : Host.Outcome State Fault Refusal := writeReadOnly v s

/-- `WR LEN_LO, v` (R91). -/
def execWrLenLo (v : Word) (s : State) : Host.Outcome State Fault Refusal := writeLen (withLowHalf s.len v) s

/-- `WR LEN_HI, v` (R92). -/
def execWrLenHi (v : Word) (s : State) : Host.Outcome State Fault Refusal := writeLen (withHighHalf s.len v) s

/-- `WR DIGEST0, v`: no effect (R100). -/
def execWrDigest0 (v : Word) (s : State) : Host.Outcome State Fault Refusal := writeReadOnly v s

/-- `WR DIGEST1, v`: no effect (R100). -/
def execWrDigest1 (v : Word) (s : State) : Host.Outcome State Fault Refusal := writeReadOnly v s

/-- `WR DIGEST2, v`: no effect (R100). -/
def execWrDigest2 (v : Word) (s : State) : Host.Outcome State Fault Refusal := writeReadOnly v s

/-- `WR DIGEST3, v`: no effect (R100). -/
def execWrDigest3 (v : Word) (s : State) : Host.Outcome State Fault Refusal := writeReadOnly v s

/-- `WR DIGEST4, v`: no effect (R100). -/
def execWrDigest4 (v : Word) (s : State) : Host.Outcome State Fault Refusal := writeReadOnly v s

/-- `WR DIGEST5, v`: no effect (R100). -/
def execWrDigest5 (v : Word) (s : State) : Host.Outcome State Fault Refusal := writeReadOnly v s

/-- `WR DIGEST6, v`: no effect (R100). -/
def execWrDigest6 (v : Word) (s : State) : Host.Outcome State Fault Refusal := writeReadOnly v s

/-- `WR DIGEST7, v`: no effect (R100). -/
def execWrDigest7 (v : Word) (s : State) : Host.Outcome State Fault Refusal := writeReadOnly v s

/-- `RD CMD`: returns zero (R95). -/
def execRdCmd (s : State) : Host.Outcome State Fault Refusal := .next (s.answer 0#32)

/-- `RD STATUS` (R98). -/
def execRdStatus (s : State) : Host.Outcome State Fault Refusal := .next (s.answer s.status)

/-- `RD LEN_LO`: returns `LEN[31:0]` (R93). -/
def execRdLenLo (s : State) : Host.Outcome State Fault Refusal := .next (s.answer (s.len.extractLsb' 0 32))

/-- `RD LEN_HI`: returns `LEN[63:32]` (R94). -/
def execRdLenHi (s : State) : Host.Outcome State Fault Refusal := .next (s.answer (s.len.extractLsb' 32 32))

/-- `RD DIGEST0` (R99). -/
def execRdDigest0 (s : State) : Host.Outcome State Fault Refusal := readDigest 0 s

/-- `RD DIGEST1` (R99). -/
def execRdDigest1 (s : State) : Host.Outcome State Fault Refusal := readDigest 1 s

/-- `RD DIGEST2` (R99). -/
def execRdDigest2 (s : State) : Host.Outcome State Fault Refusal := readDigest 2 s

/-- `RD DIGEST3` (R99). -/
def execRdDigest3 (s : State) : Host.Outcome State Fault Refusal := readDigest 3 s

/-- `RD DIGEST4` (R99). -/
def execRdDigest4 (s : State) : Host.Outcome State Fault Refusal := readDigest 4 s

/-- `RD DIGEST5` (R99). -/
def execRdDigest5 (s : State) : Host.Outcome State Fault Refusal := readDigest 5 s

/-- `RD DIGEST6` (R99). -/
def execRdDigest6 (s : State) : Host.Outcome State Fault Refusal := readDigest 6 s

/-- `RD DIGEST7` (R99). -/
def execRdDigest7 (s : State) : Host.Outcome State Fault Refusal := readDigest 7 s

/-- DIGEST (R96, R97). -/
def execDigest (s : State) : Host.Outcome State Fault Refusal := digestCommand s

end Sys2Proof.Machine
end

