-- ==== Sys2Proof/Machine/Padder.lean ====
section
/-! DEFINITION. Padder and Block Segmenter: CHK, PADL, SEGC, LDB (R116 to R119). -/

namespace Sys2Proof.Machine

/-- CHK (R116): MessageTooLarge for a length of 2^61 bytes or more, else `LB <- 8 * LREG`. -/
def execChk (s : State) : Host.Outcome State Fault Refusal :=
  if 2 ^ 61 ≤ s.lreg.toNat then .next (s.raise .messageTooLarge)
  else .next ((s.setLb (BitVec.ofNat 64 (s.lreg.toNat * 8))).setSeq .padl 0#6)

/-- PADL (R117): the padded length, in unbounded arithmetic. -/
def execPadl (s : State) : Host.Outcome State Fault Refusal :=
  .next ((s.setPb (BitVec.ofNat 65 (paddedBits s.lb.toNat))).setSeq .segc 0#6)

/-- SEGC (R118): InvalidPaddingLength unless `PB` is a multiple of 512, else the block count. -/
def execSegc (s : State) : Host.Outcome State Fault Refusal :=
  if s.pb.toNat % 512 ≠ 0 then .next (s.raise .invalidPaddingLength)
  else .next ((s.setNb (s.pb.extractLsb' 9 56)).setSeq .init 0#6)

/-- LDB (R119): block `J` of the padded message, its message bytes read in ascending order. -/
def execLdb (s : State) : Host.Outcome State Fault Refusal :=
  match collect (blockByte s) 64 with
  | .error e => .fault e
  | .ok v => .next ((s.setB v).setSeq .ldw 0#6)

end Sys2Proof.Machine
end

