-- ==== Sys2Proof/Machine/Dispatch.lean ====
section
/-! DEFINITION. One arm per operation. -/

namespace Sys2Proof.Machine

def exec (i : Instr) (s : State) : Host.Outcome State Fault Refusal :=
  match i with
  | .wrCmd v => Sys2Proof.Machine.execWrCmd v s
  | .wrStatus v => Sys2Proof.Machine.execWrStatus v s
  | .wrLenLo v => Sys2Proof.Machine.execWrLenLo v s
  | .wrLenHi v => Sys2Proof.Machine.execWrLenHi v s
  | .wrDigest0 v => Sys2Proof.Machine.execWrDigest0 v s
  | .wrDigest1 v => Sys2Proof.Machine.execWrDigest1 v s
  | .wrDigest2 v => Sys2Proof.Machine.execWrDigest2 v s
  | .wrDigest3 v => Sys2Proof.Machine.execWrDigest3 v s
  | .wrDigest4 v => Sys2Proof.Machine.execWrDigest4 v s
  | .wrDigest5 v => Sys2Proof.Machine.execWrDigest5 v s
  | .wrDigest6 v => Sys2Proof.Machine.execWrDigest6 v s
  | .wrDigest7 v => Sys2Proof.Machine.execWrDigest7 v s
  | .rdCmd => Sys2Proof.Machine.execRdCmd s
  | .rdStatus => Sys2Proof.Machine.execRdStatus s
  | .rdLenLo => Sys2Proof.Machine.execRdLenLo s
  | .rdLenHi => Sys2Proof.Machine.execRdLenHi s
  | .rdDigest0 => Sys2Proof.Machine.execRdDigest0 s
  | .rdDigest1 => Sys2Proof.Machine.execRdDigest1 s
  | .rdDigest2 => Sys2Proof.Machine.execRdDigest2 s
  | .rdDigest3 => Sys2Proof.Machine.execRdDigest3 s
  | .rdDigest4 => Sys2Proof.Machine.execRdDigest4 s
  | .rdDigest5 => Sys2Proof.Machine.execRdDigest5 s
  | .rdDigest6 => Sys2Proof.Machine.execRdDigest6 s
  | .rdDigest7 => Sys2Proof.Machine.execRdDigest7 s
  | .digest => Sys2Proof.Machine.execDigest s
  | .idle => Sys2Proof.Machine.execIdle s
  | .chk => Sys2Proof.Machine.execChk s
  | .padl => Sys2Proof.Machine.execPadl s
  | .segc => Sys2Proof.Machine.execSegc s
  | .init => Sys2Proof.Machine.execInit s
  | .ldb => Sys2Proof.Machine.execLdb s
  | .ldwT t => Sys2Proof.Machine.execLdw t s
  | .expT t => Sys2Proof.Machine.execExp t s
  | .ldr => Sys2Proof.Machine.execLdr s
  | .rndT t => Sys2Proof.Machine.execRnd t s
  | .fold => Sys2Proof.Machine.execFold s
  | .asm => Sys2Proof.Machine.execAsm s
  | .fin => Sys2Proof.Machine.execFin s
  | .errh => Sys2Proof.Machine.execErrh s

end Sys2Proof.Machine
end

