-- ==== Sys2Proof/Machine/Step.lean ====
section
/-! DEFINITION. One step of the machine: one turn of one agent, atomic (R5, R90). -/

namespace Sys2Proof.Machine

/-- Runs what was decoded, or refuses it by name (R80). -/
def run (i : Except Reject Instr) (s : State) : Host.Outcome State Fault Refusal :=
  match i with
  | .ok i => exec i s
  | .error why => .refused (.reserved why)

/-- One step: the present turn comes off the agenda and is taken. The sequencer performs the micro-operation `SEQ` names
(R78); a host access performs the access its selector names (R90); the other turns are no instructions. -/
def step (s : State) : Host.Outcome State Fault Refusal :=
  match s.turn with
  | .sequencer => run s.microOp s.consume
  | .host a => run (decodeHost a) s.consume
  | .place p b => hostPlace p b s.consume
  | .free p => hostFree p s.consume
  | .reset => .next s.consume.resetEvent

/-- The state with an opcode-table word placed where the next step takes its operation from; a word outside its format is
not placed. Log entry 16. -/
def State.withFetchWord (s : State) (nbits w : Nat) : State :=
  match encodedOfTable nbits w with
  | some e => s.present e
  | none => s

end Sys2Proof.Machine
end

