-- ==== Sys2Proof/Safety.lean ====
section
/-! DEFINITION. What counts as a sound state, in the terms the statements use: the machine's invariant, what it means that
a computation of a message is under way, and what the host can tell two states apart by. -/

namespace Sys2Proof.Machine

/-- `PH` lies between the codes `lo` and `hi`, both included (R73). -/
abbrev State.phaseIn (s : State) (lo hi : Nat) : Prop := lo ≤ s.ph.toNat ∧ s.ph.toNat ≤ hi

/-- `SEQ` is in the table of R73: LDW with an index in 0..15, EXP in 16..63, RND in 0..63, every other phase up to ERRH
with index 0. -/
abbrev State.seqLegal (s : State) : Prop :=
  (s.ph = Phase.ldw.code ∧ s.t.toNat < 16) ∨ (s.ph = Phase.exp.code ∧ 16 ≤ s.t.toNat) ∨ s.ph = Phase.rnd.code ∨
    (s.ph.toNat ≤ 0xD ∧ s.ph ≠ Phase.ldw.code ∧ s.ph ≠ Phase.exp.code ∧ s.ph ≠ Phase.rnd.code ∧ s.t = 0#6)

/-- The invariant of the machine: every step of either agent keeps it. -/
structure Inv (s : State) : Prop where
  /-- `SEQ` takes only the values of R73 (R28). -/
  legal : s.seqLegal
  /-- `ECODE` is not 0 exactly in ERRH (R31), and then it is 1: InvalidPaddingLength is never raised (R171). -/
  error : if s.ph = Phase.errh.code then s.ecode = 1#4 else s.ecode = 0#4
  /-- `DG` is zero except in FIN (R25, R99). -/
  hidden : s.ph ≠ Phase.fin.code → s.dg = Vector.replicate 32 0#8
  /-- After CHK the latched length is legal and `LB` is the length in bits (R110, R116). -/
  length : s.phaseIn 0x2 0xC → s.lreg.toNat < 2 ^ 61 ∧ s.lb.toNat = 8 * s.lreg.toNat
  /-- After PADL `PB` is the padded length (R117). -/
  padded : s.phaseIn 0x3 0xC → s.pb.toNat = paddedBits s.lb.toNat
  /-- After SEGC `NB` is the number of blocks (R112, R118). -/
  count : s.phaseIn 0x4 0xC → s.nb.toNat = blockCount s.lreg.toNat
  /-- While blocks are processed, `J` is below `NB` (R29). -/
  index : s.phaseIn 0x5 0xA → s.j.toNat < s.nb.toNat
  /-- After the last block `J` is `NB` (R149). -/
  ended : s.phaseIn 0xB 0xC → s.j.toNat = s.nb.toNat
  /-- The M-space is in canonical form. -/
  memory : Memory.wf s.mem

/-- The M-space holds the message `m` at offsets 0 upward (R52). -/
abbrev State.holds (s : State) (m : List Byte) : Prop := ∀ p, p < m.length → Memory.read s.mem p = m[p]?

/-- Block `j` of the padded message, by bytes (R113, R114). -/
def blockOf (m : List Byte) (j : Nat) : Block := Vector.ofFn fun k => padByte m (64 * j + k.val)

/-- `H^(j)`, the Hash State after `j` blocks of `m` (R150). -/
def hashAfter (m : List Byte) (j : Nat) : Eight := hashBlocks ((List.range j).map (blockOf m))

/-- The engine is computing the digest of `m`, or has finished it: at every phase each register a later step reads holds
what the functions of R110 to R161 say. -/
structure Computes (m : List Byte) (s : State) : Prop where
  legal : s.seqLegal
  live : s.ph ≠ Phase.idle.code ∧ s.ph ≠ Phase.errh.code
  noError : s.ecode = 0#4
  short : m.length < 2 ^ 61
  latched : s.lreg.toNat = m.length
  message : s.busy = true → s.holds m
  bits : s.phaseIn 0x2 0xB → s.lb.toNat = 8 * m.length
  padded : s.phaseIn 0x3 0xB → s.pb.toNat = paddedBits (8 * m.length)
  count : s.phaseIn 0x4 0xB → s.nb.toNat = blockCount m.length
  index : s.phaseIn 0x5 0xA → s.j.toNat < blockCount m.length
  ended : s.ph = Phase.asm.code → s.j.toNat = blockCount m.length
  hash : s.phaseIn 0x5 0xB → s.h = hashAfter m s.j.toNat
  block : s.ph = Phase.ldw.code → s.b = blockOf m s.j.toNat
  prefixed : s.phaseIn 0x6 0x7 →
    ∀ i (hi : i < 64), i < s.t.toNat → s.w[i] = (expand (blockOf m s.j.toNat))[i]
  schedule : s.phaseIn 0x8 0x9 → s.w = expand (blockOf m s.j.toNat)
  round : s.ph = Phase.rnd.code → s.r = rounds (expand (blockOf m s.j.toNat)) s.h s.t.toNat
  rounded : s.ph = Phase.fold.code → s.r = rounds (expand (blockOf m s.j.toNat)) s.h 64
  digest : s.ph = Phase.fin.code → digestOf m = .ok s.dg

/-- The host sees no difference between two states: everything but the registers R20 calls internal and the host cannot
read agrees (`SEQ` is seen through `STATUS`); whose turn comes, the message memory and what was handed back agree too. -/
structure SameToHost (s t : State) : Prop where
  seq : s.ph = t.ph ∧ s.t = t.t
  ecode : s.ecode = t.ecode
  len : s.len = t.len
  dg : s.dg = t.dg
  mem : s.mem = t.mem
  agenda : s.agenda = t.agenda
  answers : s.answers = t.answers
  resets : s.resets = t.resets

/-- Two outcomes are the same to the host: two next states it cannot tell apart, or the same stop. -/
def sameOutcome : Host.Outcome State Fault Refusal → Host.Outcome State Fault Refusal → Prop
  | .next s, .next t => SameToHost s t
  | .fault e, .fault f => e = f
  | .refused e, .refused f => e = f
  | _, _ => False

/-- The access by which the host issues the command: a 32-bit write of 0x00000001 to offset 0x00 (R72, R96). -/
def commandAccess : Access := ⟨true, 32, 0x00, 0x00000001#32⟩

end Sys2Proof.Machine
end

