-- ==== Sys2Proof/Certificates/Slice0/Obligations.lean ====
section
/-! DEFINITION. The statements for the provers. Each docstring names the rule of spec/ it formalises. A record update on the
right of an equation such as `t = { s with len := t.len }` is the frame: every register, flag and byte of memory it does
not list is unchanged. -/

open Sys2Proof Sys2Proof.Machine

/-- `RD DIGESTk` (R75). -/
def Sys2Proof.Machine.digestRead : Fin 8 → Instr
  | 0 => .rdDigest0
  | 1 => .rdDigest1
  | 2 => .rdDigest2
  | 3 => .rdDigest3
  | 4 => .rdDigest4
  | 5 => .rdDigest5
  | 6 => .rdDigest6
  | 7 => .rdDigest7

/-- `WR DIGESTk, v` (R75). -/
def Sys2Proof.Machine.digestWrite (v : Word) : Fin 8 → Instr
  | 0 => .wrDigest0 v
  | 1 => .wrDigest1 v
  | 2 => .wrDigest2 v
  | 3 => .wrDigest3 v
  | 4 => .wrDigest4 v
  | 5 => .wrDigest5 v
  | 6 => .wrDigest6 v
  | 7 => .wrDigest7 v

/-- The operations of the host: register accesses and the command (R75, R76). -/
def Sys2Proof.Machine.isHostOperation (i : Instr) : Prop :=
  match encode i with
  | .access _ _ => True
  | .command _ => True
  | .seq _ => False

/-- The 12 reads of the host: the accesses with `we = 0` (R71, R75). -/
def Sys2Proof.Machine.isHostRead (i : Instr) : Prop :=
  match encode i with
  | .access sel _ => sel.getLsbD 6 = false
  | .command _ => False
  | .seq _ => False

/-- `LDB` needs byte `k` of its block from the M-space and cannot have it: it is a message byte (R119) whose offset lies
outside the M-space (R52) or is not answered (R56). -/
def Sys2Proof.Machine.missesByte (s : State) (k : Nat) : Prop :=
  64 * s.j.toNat + k < s.lreg.toNat ∧
    (2 ^ 61 ≤ 64 * s.j.toNat + k ∨ Memory.read s.mem (64 * s.j.toNat + k) = none)

/-- The primes `p_0, ..., p_63` of R34 and R35, as the table of R34 lists them. -/
def Sys2Proof.Machine.firstPrimes : List Nat :=
  [2, 3, 5, 7, 11, 13, 17, 19, 23, 29, 31, 37, 41, 43, 47, 53] ++
  [59, 61, 67, 71, 73, 79, 83, 89, 97, 101, 103, 107, 109, 113, 127, 131] ++
  [137, 139, 149, 151, 157, 163, 167, 173, 179, 181, 191, 193, 197, 199, 211, 223] ++
  [227, 229, 233, 239, 241, 251, 257, 263, 269, 271, 277, 281, 283, 293, 307, 311]

/-! ## Encoding -/

/-- R71 to R73, R75 to R77: decoding the encoding of a well-formed operation gives it back, every operand at every value. -/
def Obligations.EncodeThenDecodeIsIdentity : Prop :=
  ∀ i : Instr, i.wellFormed = true → decode (encode i) = .ok i

/-- R79: what is decoded is well formed, and the word is that operation's encoding (for a read, up to the data word, which a
read does not carry): no word has two meanings and no two rows overlap. -/
def Obligations.DecodedWordIsItsEncoding : Prop :=
  ∀ (e : Encoded) (i : Instr), decode e = .ok i → i.wellFormed = true ∧
    (encode i = e ∨ ∃ sel v, e = .access sel v ∧ sel.getLsbD 6 = false ∧ encode i = .access sel 0#32)

/-- R80: exactly the encodings the rule lists are refused. -/
def Obligations.ExactlyReservedEncodingsRefused : Prop :=
  (∀ a : Access, (∃ why, decodeHost a = .error why) ↔ a.bits ≠ 32 ∨ 64 ≤ a.off ∨ a.off % 4 ≠ 0 ∨ 0x30 ≤ a.off) ∧
  (∀ c : Word, (∃ why, decodeCommand c = .error why) ↔ c ≠ 0x00000001#32) ∧
  (∀ (ph : BitVec 4) (t : BitVec 6), (∃ why, decode (.seq (seqWord ph t)) = .error why) ↔
    0xE ≤ ph.toNat ∨ (ph = 0x6#4 ∧ 16 ≤ t.toNat) ∨ (ph = 0x7#4 ∧ t.toNat < 16) ∨
      (ph ≠ 0x6#4 ∧ ph ≠ 0x7#4 ∧ ph ≠ 0x9#4 ∧ t ≠ 0#6))

/-- R73, R75, R76: one word of every family, written out from the tables. -/
def Obligations.SampleWordsDecode : Prop :=
  (∀ v, decode (.access 0b1001000#7 v) = .ok (.wrLenLo v)) ∧
  (∀ v, decode (.access 0b1101100#7 v) = .ok (.wrDigest7 v)) ∧
  (∀ v, decode (.access 0b0010100#7 v) = .ok .rdDigest1) ∧
  decode (.command 0x00000001#32) = .ok .digest ∧
  decode (.seq 0b0000000000#10) = .ok .idle ∧
  decode (.seq 0b0001000000#10) = .ok .chk ∧
  decode (.seq 0b0110001111#10) = .ok (.ldwT 15#6) ∧
  decode (.seq 0b0111010000#10) = .ok (.expT 16#6) ∧
  decode (.seq 0b1001011110#10) = .ok (.rndT 30#6) ∧
  decode (.seq 0b1011000000#10) = .ok .asm

/-! ## The step -/

/-- R5, R78, R90: with the sequencer's turn a step is the operation `SEQ` names, with a host access's turn the operation its
selector names, each on the state with that turn taken off the agenda; with no turn listed it is the sequencer's
(the agenda of turns is the model's own, log entry 1). -/
def Obligations.StepRunsTheDecodedOperation : Prop :=
  (∀ (s : State) (i : Instr), s.turn = .sequencer → decode (.seq (seqWord s.ph s.t)) = .ok i →
    step s = exec i { s with agenda := s.agenda.tail }) ∧
  (∀ (s : State) (a : Access) (i : Instr), s.turn = .host a → decodeHost a = .ok i →
    step s = exec i { s with agenda := s.agenda.tail }) ∧
  (∀ s : State, s.agenda = [] → s.turn = .sequencer) ∧
  (∀ (s : State) (x : Turn) (l : List Turn), s.agenda = x :: l → s.turn = x)

/-- R102: the reserved slots and the reserved command words are refused, read or write, busy or not. -/
def Obligations.ReservedSlotsAndCommandsRefused : Prop :=
  (∀ (s : State) (we : Bool) (off : Nat) (v : Word),
    off = 0x30 ∨ off = 0x34 ∨ off = 0x38 ∨ off = 0x3C →
    s.turn = .host ⟨we, 32, off, v⟩ → step s = .refused (.reserved .reservedSlot)) ∧
  (∀ (s : State) (v : Word), v ≠ 0x00000001#32 →
    exec (.wrCmd v) s = .refused (.reserved .reservedCommand) ∧
    (s.turn = .host ⟨true, 32, 0x00, v⟩ → step s = .refused (.reserved .reservedCommand)))

/-! ## Host accesses -/

/-- R91. -/
def Obligations.WriteLenLo : Prop :=
  (∀ v, decode (.access 0b1001000#7 v) = .ok (.wrLenLo v)) ∧
  ∀ (s : State) (v : Word),
    (s.busy = false → ∃ t, exec (.wrLenLo v) s = .next t ∧
      t.len.toNat = s.len.toNat / 2 ^ 32 * 2 ^ 32 + v.toNat ∧ t = { s with len := t.len }) ∧
    (s.busy = true → exec (.wrLenLo v) s = .next s)

/-- R92. -/
def Obligations.WriteLenHi : Prop :=
  (∀ v, decode (.access 0b1001100#7 v) = .ok (.wrLenHi v)) ∧
  ∀ (s : State) (v : Word),
    (s.busy = false → ∃ t, exec (.wrLenHi v) s = .next t ∧
      t.len.toNat = v.toNat * 2 ^ 32 + s.len.toNat % 2 ^ 32 ∧ t = { s with len := t.len }) ∧
    (s.busy = true → exec (.wrLenHi v) s = .next s)

/-- R93, R94: the two halves of `LEN`, in any state, busy or not (what a read hands back is kept in a list of the model's own,
log entry 3). -/
def Obligations.ReadLenHalves : Prop :=
  (∀ v, decode (.access 0b0001000#7 v) = .ok .rdLenLo ∧ decode (.access 0b0001100#7 v) = .ok .rdLenHi) ∧
  ∀ s : State,
    (∃ x : Word, x.toNat = s.len.toNat % 2 ^ 32 ∧ exec .rdLenLo s = .next { s with answers := x :: s.answers }) ∧
    (∃ x : Word, x.toNat = s.len.toNat / 2 ^ 32 ∧ exec .rdLenHi s = .next { s with answers := x :: s.answers })

/-- R95 (the word is handed back as log entry 3 says). -/
def Obligations.ReadCmdReturnsZero : Prop :=
  (∀ v, decode (.access 0b0000000#7 v) = .ok .rdCmd) ∧
  ∀ s : State, exec .rdCmd s = .next { s with answers := 0x00000000#32 :: s.answers }

/-- R98 with the fields of R30; the read clears nothing (the word is handed back as log entry 3 says). -/
def Obligations.ReadStatusReturnsTheFlags : Prop :=
  (∀ v, decode (.access 0b0000100#7 v) = .ok .rdStatus) ∧
  ∀ s : State, ∃ x : Word, exec .rdStatus s = .next { s with answers := x :: s.answers } ∧
    x.toNat = (if s.ph = 0x0#4 ∨ s.ph = 0xC#4 ∨ s.ph = 0xD#4 then 0 else 1) + (if s.ph = 0xC#4 then 2 else 0) +
      (if s.ph = 0xD#4 then 4 else 0) + 16 * s.ecode.toNat

/-- R99, R33: `RD DIGESTk` returns digest bytes `4k` to `4k+3`, byte `4k` the most significant, and changes nothing (the word is
handed back as log entry 3 says). -/
def Obligations.ReadDigestReturnsItsBytes : Prop :=
  ∀ (k : Fin 8) (v : Word), decode (.access (selectorOf false (0x10 + 4 * k.val)) v) = .ok (digestRead k) ∧
    ∀ s : State, ∃ x : Word, exec (digestRead k) s = .next { s with answers := x :: s.answers } ∧
      x.toNat = s.dg[4 * k.val].toNat * 2 ^ 24 + s.dg[4 * k.val + 1].toNat * 2 ^ 16 +
        s.dg[4 * k.val + 2].toNat * 2 ^ 8 + s.dg[4 * k.val + 3].toNat

/-- R100. -/
def Obligations.ReadOnlyRegistersIgnoreWrites : Prop :=
  ∀ v : Word, decode (.access 0b1000100#7 v) = .ok (.wrStatus v) ∧
    (∀ k : Fin 8, decode (.access (selectorOf true (0x10 + 4 * k.val)) v) = .ok (digestWrite v k)) ∧
    ∀ s : State, exec (.wrStatus v) s = .next s ∧ ∀ k : Fin 8, exec (digestWrite v k) s = .next s

/-- R96: the accepted command, by either of its two decoders (the register write and the command word). -/
def Obligations.DigestCommandAccepted : Prop :=
  decode (.access 0b1000000#7 0x00000001#32) = .ok (.wrCmd 0x00000001#32) ∧
  decode (.command 0x00000001#32) = .ok .digest ∧
  ∀ s : State, s.ph = 0x0#4 ∨ s.ph = 0xC#4 ∨ s.ph = 0xD#4 →
    ∃ t, exec (.wrCmd 0x00000001#32) s = .next t ∧ exec .digest s = .next t ∧
      t = { s with lreg := s.len, ecode := 0#4, dg := t.dg, ph := 0x1#4, t := 0#6 } ∧
      (∀ i (hi : i < 32), t.dg[i] = 0x00#8) ∧ t.status = 0x00000001#32

/-- R97: a command while busy changes nothing and is not queued. -/
def Obligations.DigestCommandIgnoredWhileBusy : Prop :=
  ∀ s : State, s.busy = true → exec (.wrCmd 0x00000001#32) s = .next s ∧ exec .digest s = .next s

/-- R5, R200: while the engine is busy no host operation changes anything but what the host is handed (log entry 3). -/
def Obligations.HostOperationsWhileBusyChangeNothing : Prop :=
  ∀ (i : Instr) (s t : State), isHostOperation i → s.busy = true → exec i s = .next t →
    t = { s with answers := t.answers } ∧ (t.answers = s.answers ∨ ∃ x, t.answers = x :: s.answers)

/-! ## Halt phases -/

/-- R78, R104, R164, R176: a halt phase has no step; that its turn leaves the state as it is, is the model's choice (log
entry 2). -/
def Obligations.HaltPhasesKeepTheState : Prop :=
  ∀ s : State, exec .idle s = .next s ∧ exec .fin s = .next s ∧ exec .errh s = .next s

/-! ## Padder and segmenter -/

/-- R116, R170, R175: the length check and its error entry. -/
def Obligations.ChkChecksTheLength : Prop :=
  decode (.seq 0b0001000000#10) = .ok .chk ∧
  ∀ s : State,
    (2 ^ 61 ≤ s.lreg.toNat → exec .chk s = .next { s with ecode := 1#4, ph := 0xD#4, t := 0#6 }) ∧
    (s.lreg.toNat < 2 ^ 61 → ∃ t, exec .chk s = .next t ∧ t.lb.toNat = 8 * s.lreg.toNat ∧
      t = { s with lb := t.lb, ph := 0x2#4, t := 0#6 })

/-- R117: the padded length, with no wrap-around. -/
def Obligations.PadlComputesThePaddedLength : Prop :=
  decode (.seq 0b0010000000#10) = .ok .padl ∧
  ∀ s : State, ∃ t, exec .padl s = .next t ∧ t = { s with pb := t.pb, ph := 0x3#4, t := 0#6 } ∧
    t.pb.toNat % 512 = 0 ∧ s.lb.toNat + 65 ≤ t.pb.toNat ∧ t.pb.toNat < s.lb.toNat + 65 + 512

/-- R118, R171, R175: the segment check, its error entry and the block count. -/
def Obligations.SegcCountsTheBlocks : Prop :=
  decode (.seq 0b0011000000#10) = .ok .segc ∧
  ∀ s : State,
    (s.pb.toNat % 512 ≠ 0 → exec .segc s = .next { s with ecode := 2#4, ph := 0xD#4, t := 0#6 }) ∧
    (s.pb.toNat % 512 = 0 → ∃ t, exec .segc s = .next t ∧ t.nb.toNat = s.pb.toNat / 512 ∧
      t = { s with nb := t.nb, ph := 0x4#4, t := 0#6 })

/-- R171: after PADL the check of SEGC never raises, and the count is `N` of the bit length. -/
def Obligations.InvalidPaddingLengthIsDead : Prop :=
  ∀ s t : State, exec .padl s = .next t →
    ∃ u, exec .segc t = .next u ∧ u.ecode = s.ecode ∧ u.ph = 0x4#4 ∧ u.nb.toNat = paddedBits s.lb.toNat / 512

/-- R119: with the message bytes of block `J` in the M-space, LDB writes `B` byte by byte as the rule says. In the last
clause `q` is `p - (64N - 8)`, and only its values 0 to 7 have a meaning (R14). -/
def Obligations.LdbLoadsTheBlock : Prop :=
  decode (.seq 0b0101000000#10) = .ok .ldb ∧
  ∀ s : State,
    (∀ k, k < 64 → 64 * s.j.toNat + k < s.lreg.toNat →
      64 * s.j.toNat + k < 2 ^ 61 ∧ ∃ b, Memory.read s.mem (64 * s.j.toNat + k) = some b) →
    ∃ t, exec .ldb s = .next t ∧ t = { s with b := t.b, ph := 0x6#4, t := 0#6 } ∧
      ∀ k (hk : k < 64),
        if 64 * s.j.toNat + k < s.lreg.toNat then some t.b[k] = Memory.read s.mem (64 * s.j.toNat + k)
        else if 64 * s.j.toNat + k = s.lreg.toNat then t.b[k] = 0x80#8
        else if 64 * s.j.toNat + k + 8 < 64 * s.nb.toNat then t.b[k] = 0x00#8
        else ∀ q, q < 8 → 64 * s.j.toNat + k + 8 = 64 * s.nb.toNat + q →
          t.b[k].toNat = s.lb.toNat / 2 ^ (8 * (7 - q)) % 2 ^ 8

/-- R56 (`93_implementation_defined.md` U7), R52: LDB stops exactly when a message byte of its block is not answered or lies
outside the M-space, and then by name: with the fault of the first such byte in the ascending order of R119 (the two faults
are the model's, log entries 6 and 7). -/
def Obligations.LdbStopsOnlyOnAMissingByte : Prop :=
  ∀ s : State, ((∀ t, exec .ldb s ≠ .next t) ↔ ∃ k, k < 64 ∧ missesByte s k) ∧
    ∀ k, k < 64 → missesByte s k → (∀ i, i < k → ¬ missesByte s i) →
      exec .ldb s = .fault (if 2 ^ 61 ≤ 64 * s.j.toNat + k then .outsideMSpace else .messageByteUnanswered)

/-! ## Schedule expander -/

/-- R133. -/
def Obligations.LdwWritesAWordOfTheBlock : Prop :=
  ∀ (n : Nat) (hn : n < 16), decode (.seq (BitVec.ofNat 10 (0x180 + n))) = .ok (.ldwT (BitVec.ofNat 6 n)) ∧
    ∀ s : State, ∃ t, exec (.ldwT (BitVec.ofNat 6 n)) s = .next t ∧
      t = { s with w := t.w, ph := t.ph, t := t.t } ∧
      t.w[n].toNat = s.b[4 * n].toNat * 2 ^ 24 + s.b[4 * n + 1].toNat * 2 ^ 16 + s.b[4 * n + 2].toNat * 2 ^ 8 +
        s.b[4 * n + 3].toNat ∧
      (∀ i (hi : i < 64), i ≠ n → t.w[i] = s.w[i]) ∧
      (if n < 15 then t.ph = 0x6#4 ∧ t.t.toNat = n + 1 else t.ph = 0x7#4 ∧ t.t.toNat = 16)

/-- R134. -/
def Obligations.ExpWritesTheRecurrence : Prop :=
  ∀ (n : Nat) (hn : n < 64), 16 ≤ n →
    decode (.seq (BitVec.ofNat 10 (0x1C0 + n))) = .ok (.expT (BitVec.ofNat 6 n)) ∧
    ∀ s : State, ∃ t, exec (.expT (BitVec.ofNat 6 n)) s = .next t ∧
      t = { s with w := t.w, ph := t.ph, t := t.t } ∧
      t.w[n].toNat = (s.w[n - 16].toNat + (ssig0 s.w[n - 15]).toNat + s.w[n - 7].toNat + (ssig1 s.w[n - 2]).toNat) %
        2 ^ 32 ∧
      (∀ i (hi : i < 64), i ≠ n → t.w[i] = s.w[i]) ∧
      (if n < 63 then t.ph = 0x7#4 ∧ t.t.toNat = n + 1 else t.ph = 0x8#4 ∧ t.t = 0#6)

/-! ## Compressor and assembler -/

/-- R146; the values of `IV` are the subject of `ConstantTablesAreTheRoots`. -/
def Obligations.InitSeedsTheHashState : Prop :=
  decode (.seq 0b0100000000#10) = .ok .init ∧
  ∀ s : State, exec .init s = .next { s with h := initialHash, j := 0#56, ph := 0x5#4, t := 0#6 }

/-- R147. -/
def Obligations.LdrCopiesTheHashState : Prop :=
  decode (.seq 0b1000000000#10) = .ok .ldr ∧
  ∀ s : State, exec .ldr s = .next { s with r := s.h, ph := 0x9#4, t := 0#6 }

/-- R144, R148: one round, all eight registers at once, every right-hand side a value before the round; the values of `K`
are the subject of `ConstantTablesAreTheRoots`. -/
def Obligations.RndPerformsOneRound : Prop :=
  ∀ (n : Nat) (hn : n < 64), decode (.seq (BitVec.ofNat 10 (0x240 + n))) = .ok (.rndT (BitVec.ofNat 6 n)) ∧
    ∀ s : State, ∃ t, exec (.rndT (BitVec.ofNat 6 n)) s = .next t ∧
      t = { s with r := t.r, ph := t.ph, t := t.t } ∧
      (∃ t1 t2 : Nat,
        t1 = s.r[7].toNat + (bsig1 s.r[4]).toNat + (ch s.r[4] s.r[5] s.r[6]).toNat + roundConstants[n].toNat +
          s.w[n].toNat ∧
        t2 = (bsig0 s.r[0]).toNat + (maj s.r[0] s.r[1] s.r[2]).toNat ∧
        t.r[0].toNat = (t1 + t2) % 2 ^ 32 ∧ t.r[4].toNat = (s.r[3].toNat + t1) % 2 ^ 32) ∧
      t.r[1] = s.r[0] ∧ t.r[2] = s.r[1] ∧ t.r[3] = s.r[2] ∧ t.r[5] = s.r[4] ∧ t.r[6] = s.r[5] ∧ t.r[7] = s.r[6] ∧
      (if n < 63 then t.ph = 0x9#4 ∧ t.t.toNat = n + 1 else t.ph = 0xA#4 ∧ t.t = 0#6)

/-- R149: the fold, the index (whose increment is stated where it fits the register, R29; elsewhere it is a free value, log
entry 10), and where the sequencer goes. -/
def Obligations.FoldAccumulates : Prop :=
  decode (.seq 0b1010000000#10) = .ok .fold ∧
  ∀ s : State, ∃ t, exec .fold s = .next t ∧ t = { s with h := t.h, j := t.j, ph := t.ph, t := 0#6 } ∧
    (∀ k (hk : k < 8), t.h[k].toNat = (s.h[k].toNat + s.r[k].toNat) % 2 ^ 32) ∧
    (s.j.toNat + 1 < 2 ^ 56 → t.j.toNat = s.j.toNat + 1) ∧
    t.ph = (if s.j.toNat + 1 = s.nb.toNat then 0xB#4 else 0x5#4)

/-- R160, R162: all 32 digest bytes, big-endian, in one step; `STATUS` becomes 0x00000002 when no error code stands. -/
def Obligations.AsmWritesTheDigest : Prop :=
  decode (.seq 0b1011000000#10) = .ok .asm ∧
  ∀ s : State, ∃ t, exec .asm s = .next t ∧ t = { s with dg := t.dg, ph := 0xC#4, t := 0#6 } ∧
    (∀ k (hk : k < 8) i (hi : i < 4), t.dg[4 * k + i].toNat = s.h[k].toNat / 2 ^ (8 * (3 - i)) % 2 ^ 8) ∧
    (s.ecode = 0#4 → t.status = 0x00000002#32)

/-! ## Rules about every operation -/

/-- R78: what each micro-operation writes to `SEQ`, with R149's test for FOLD; that the halt phases' turn keeps `SEQ` is the
model's choice (log entry 2). -/
def Obligations.NextStateTable : Prop :=
  ∀ s t : State, s.turn = .sequencer → step s = .next t →
    (s.ph = 0x0#4 ∨ s.ph = 0xC#4 ∨ s.ph = 0xD#4 → t.ph = s.ph ∧ t.t = s.t) ∧
    (s.ph = 0x1#4 → if s.lreg.toNat < 2 ^ 61 then t.ph = 0x2#4 ∧ t.t = 0#6
      else t.ph = 0xD#4 ∧ t.t = 0#6 ∧ t.ecode = 1#4) ∧
    (s.ph = 0x2#4 → t.ph = 0x3#4 ∧ t.t = 0#6) ∧
    (s.ph = 0x3#4 → if s.pb.toNat % 512 = 0 then t.ph = 0x4#4 ∧ t.t = 0#6
      else t.ph = 0xD#4 ∧ t.t = 0#6 ∧ t.ecode = 2#4) ∧
    (s.ph = 0x4#4 → t.ph = 0x5#4 ∧ t.t = 0#6) ∧
    (s.ph = 0x5#4 → t.ph = 0x6#4 ∧ t.t = 0#6) ∧
    (s.ph = 0x6#4 → if s.t.toNat < 15 then t.ph = 0x6#4 ∧ t.t.toNat = s.t.toNat + 1 else t.ph = 0x7#4 ∧ t.t = 16#6) ∧
    (s.ph = 0x7#4 → if s.t.toNat < 63 then t.ph = 0x7#4 ∧ t.t.toNat = s.t.toNat + 1 else t.ph = 0x8#4 ∧ t.t = 0#6) ∧
    (s.ph = 0x8#4 → t.ph = 0x9#4 ∧ t.t = 0#6) ∧
    (s.ph = 0x9#4 → if s.t.toNat < 63 then t.ph = 0x9#4 ∧ t.t.toNat = s.t.toNat + 1 else t.ph = 0xA#4 ∧ t.t = 0#6) ∧
    (s.ph = 0xA#4 → if s.j.toNat + 1 = s.nb.toNat then t.ph = 0xB#4 ∧ t.t = 0#6 else t.ph = 0x5#4 ∧ t.t = 0#6) ∧
    (s.ph = 0xB#4 → t.ph = 0xC#4 ∧ t.t = 0#6) ∧
    s.ph.toNat ≤ 0xD

/-- R36, the writing half of the access matrix: an operation writes only the registers the matrix shows for it, and none the
M-space. The last clauses are about the model's own fields: a read hands back one word and no other operation hands one
back (`answers`, log entry 3), and no operation touches the turns to come (`agenda`, log entry 1) or the count of reset
events (`resets`, log entry 5). -/
def Obligations.AccessMatrixOfWrites : Prop :=
  ∀ (i : Instr) (s t : State), exec i s = .next t →
    (i ≠ .init → i ≠ .fold → t.h = s.h) ∧
    (i ≠ .ldr → (∀ x, i ≠ .rndT x) → t.r = s.r) ∧
    (∀ n (hn : n < 64), i ≠ .ldwT (BitVec.ofNat 6 n) → i ≠ .expT (BitVec.ofNat 6 n) → t.w[n] = s.w[n]) ∧
    (i ≠ .ldb → t.b = s.b) ∧
    (i ≠ .digest → (∀ v, i ≠ .wrCmd v) → i ≠ .asm → t.dg = s.dg) ∧
    ((∀ v, i ≠ .wrLenLo v) → (∀ v, i ≠ .wrLenHi v) → t.len = s.len) ∧
    (i ≠ .digest → (∀ v, i ≠ .wrCmd v) → t.lreg = s.lreg) ∧
    (i ≠ .chk → t.lb = s.lb) ∧
    (i ≠ .padl → t.pb = s.pb) ∧
    (i ≠ .segc → t.nb = s.nb) ∧
    (i ≠ .init → i ≠ .fold → t.j = s.j) ∧
    (i ≠ .digest → (∀ v, i ≠ .wrCmd v) → i ≠ .chk → i ≠ .segc → t.ecode = s.ecode) ∧
    (isHostOperation i → i ≠ .digest → (∀ v, i ≠ .wrCmd v) → t.ph = s.ph ∧ t.t = s.t) ∧
    (¬ isHostRead i → t.answers = s.answers) ∧ (isHostRead i → ∃ x, t.answers = x :: s.answers) ∧
    t.mem = s.mem ∧ t.agenda = s.agenda ∧ t.resets = s.resets

/-- R58: no operation changes a byte of memory. -/
def Obligations.NoOperationWritesMemory : Prop :=
  ∀ (i : Instr) (s t : State) (p : Nat), exec i s = .next t → Memory.read t.mem p = Memory.read s.mem p

/-- R30, R98: at most one of BUSY, DONE, ERR is set, none of them exactly in IDLE, and the reserved bits read 0, in every
state. -/
def Obligations.StatusFlagsExclude : Prop :=
  ∀ s : State, ¬ (s.busy = true ∧ s.done = true) ∧ ¬ (s.busy = true ∧ s.err = true) ∧
    ¬ (s.done = true ∧ s.err = true) ∧
    ((s.busy = false ∧ s.done = false ∧ s.err = false) ↔ s.ph = 0x0#4) ∧
    s.status.getLsbD 3 = false ∧ s.status.toNat < 2 ^ 8

/-- R30, R171: under the invariant `STATUS` takes only its legal values; 0x00000024 is unreachable. -/
def Obligations.StatusTakesOnlyLegalValues : Prop :=
  ∀ s : State, Inv s → s.status = 0x00000000#32 ∨ s.status = 0x00000001#32 ∨ s.status = 0x00000002#32 ∨
    s.status = 0x00000014#32

/-! ## Reset -/

/-- R190: what the reset event leaves, in any state; the registers R39 calls unspecified are not spoken of. That the event
is a turn taken off the agenda and leaves the other turns and the words handed back alone is the model's choice (log
entries 1, 3 and 5). -/
def Obligations.ResetEventEffect : Prop :=
  ∀ s : State, s.turn = .reset → ∃ t, step s = .next t ∧ t.ph = 0x0#4 ∧ t.t = 0#6 ∧ t.ecode = 0#4 ∧ t.len = 0#64 ∧
    (∀ i (hi : i < 32), t.dg[i] = 0x00#8) ∧ t.status = 0x00000000#32 ∧ t.mem = s.mem ∧ t.answers = s.answers ∧
    t.agenda = s.agenda.tail

/-- R39: the values the spec gives for reset. -/
def Obligations.ResetStateValues : Prop :=
  State.reset.ph = 0x0#4 ∧ State.reset.t = 0#6 ∧ State.reset.ecode = 0#4 ∧ State.reset.len = 0#64 ∧
    (∀ i (hi : i < 32), State.reset.dg[i] = 0x00#8) ∧ State.reset.status = 0x00000000#32

/-! ## Invariants -/

/-- The invariant holds after reset. -/
def Obligations.ResetMeetsTheInvariant : Prop := Inv State.reset

/-- R28, R31, R25, R29, R110, R112, R171: every step of either agent, the reset event and the host's changes of the message
memory among them, keeps the invariant. -/
def Obligations.EveryStepKeepsTheInvariant : Prop := ∀ s t : State, Inv s → step s = .next t → Inv t

/-! ## The message memory -/

/-- R52, R64, R192 step 1: a byte the host places is the one read there, every other byte and every register stay as they
were; a freed offset holds no byte. That these are turns of the model, with R199's duty as their guard, is log entry 8; that
freeing completes at an offset of 2^61 or more, too, is the model's choice (log entry 18). -/
def Obligations.HostPlacesAndFreesBytes : Prop :=
  (∀ (s : State) (p : Nat) (b : Byte), s.turn = .place p b → p < 2 ^ 61 → ¬ (s.busy = true ∧ p < s.lreg.toNat) →
    ∃ t, step s = .next t ∧ t = { s with mem := t.mem, agenda := s.agenda.tail } ∧ Memory.read t.mem p = some b ∧
      ∀ q, q ≠ p → Memory.read t.mem q = Memory.read s.mem q) ∧
  (∀ (s : State) (p : Nat), Memory.wf s.mem → s.turn = .free p → ¬ (s.busy = true ∧ p < s.lreg.toNat) →
    ∃ t, step s = .next t ∧ t = { s with mem := t.mem, agenda := s.agenda.tail } ∧ Memory.read t.mem p = none ∧
      ∀ q, q ≠ p → Memory.read t.mem q = Memory.read s.mem q)

/-- R199: no step taken while the engine is busy changes a byte of the message, whichever agent takes it: the host's duty
is built into the model (log entry 8). -/
def Obligations.MessageIsStableWhileBusy : Prop :=
  ∀ (s t : State) (p : Nat), s.busy = true → p < s.lreg.toNat → step s = .next t →
    Memory.read t.mem p = Memory.read s.mem p

/-! ## The whole operation -/

/-- R103, R177, R178: a length of 2^61 bytes or more ends, from any state that is not busy, after the one step CHK in ERRH,
with `STATUS` 0x00000014, a zero digest, the length unchanged and the rejected length in `LREG`; everything else holds what
it held before the command. (The turns of the run are log entry 1.) -/
def Obligations.OversizedLengthContract : Prop :=
  ∀ s : State, s.busy = false → 2 ^ 61 ≤ s.len.toNat →
    ∃ t : State, Host.Core.run core 2 { s with agenda := [.host commandAccess] } = .next t ∧
      t.status = 0x00000014#32 ∧ (∀ i (hi : i < 32), t.dg[i] = 0x00#8) ∧
      t = { s with lreg := s.len, ecode := 1#4, dg := t.dg, ph := 0xD#4, t := 0#6, agenda := [] }

/-- R145, R149 (131 steps, R203): from LDB, the steps of one block compress it into the Hash State.
That they are the steps of an empty agenda is log entry 1, and what `J` holds where `J + 1` does not fit is log entry 10. -/
def Obligations.BlockStepsCompress : Prop :=
  ∀ (s : State) (blk : Block), s.ph = 0x5#4 → s.t = 0#6 → s.agenda = [] →
    (∀ k (hk : k < 64), blockByte s k = .ok blk[k]) →
    ∃ t : State, Host.Core.run core 131 s = .next t ∧ t.h = compress s.h blk ∧
      (s.j.toNat + 1 < 2 ^ 56 → t.j.toNat = s.j.toNat + 1) ∧
      t.ph = (if s.j.toNat + 1 = s.nb.toNat then 0xB#4 else 0x5#4) ∧ t.t = 0#6 ∧
      t = { s with h := t.h, r := t.r, w := t.w, b := t.b, j := t.j, ph := t.ph }

/-- R101, R203: from any state that is not busy, the accepted command on a message in place is followed by exactly
`5 + 131 * N` sequencer steps, busy before each of them, and then `STATUS` is 0x00000002 and `DG` is `Digest(m)`. The turns
of the run, the command's and then the sequencer's, are the model's agenda (log entry 1). -/
def Obligations.DigestContract : Prop :=
  ∀ (m : List Byte) (s : State), s.busy = false → m.length < 2 ^ 61 → s.len.toNat = m.length → s.holds m →
    (∀ k, k < 5 + 131 * blockCount m.length →
      ∃ u : State, Host.Core.run core (1 + k) { s with agenda := [.host commandAccess] } = .next u ∧ u.busy = true) ∧
    ∃ t : State,
      Host.Core.run core (1 + (5 + 131 * blockCount m.length)) { s with agenda := [.host commandAccess] } = .next t ∧
      t.status = 0x00000002#32 ∧ digestOf m = .ok t.dg ∧ t.len = s.len ∧ t.mem = s.mem ∧ t.agenda = []

/-- R96, R101: an accepted command on a message in place starts its computation. -/
def Obligations.CommandStartsTheComputation : Prop :=
  ∀ (m : List Byte) (s : State), s.busy = false → m.length < 2 ^ 61 → s.len.toNat = m.length → s.holds m →
    ∃ t, exec .digest s = .next t ∧ Computes m t

/-- R101, R17: a computation goes on correctly under every turn that completes, of either agent and in any interleaving (the
turns are the model's agenda, log entry 1), up to the next accepted command or reset; at FIN the digest is `Digest(m)`.
That this takes in the host's placing and freeing of bytes while the engine is busy rests on log entry 8 (unsafe): the
host's duty of R199 is built into the model, so a turn that would change the message then is refused and does not
complete. Once finished, such a turn completes and leaves the digest as it is (R64 point 2). -/
def Obligations.ComputationSurvivesEveryInterleaving : Prop :=
  ∀ (m : List Byte) (s t : State), Computes m s → s.turn ≠ .reset →
    (s.busy = true ∨ ∀ a, s.turn = .host a → decodeHost a ≠ .ok (.wrCmd 0x00000001#32)) →
    step s = .next t → Computes m t

/-- R203, R6: while busy on a message in place the sequencer always has a step, and a host access never takes it away: after
one the engine is still busy, at the same micro-operation, and with the sequencer's turn next there is a step (whose turn it
is, is log entry 1). -/
def Obligations.BusySequencerHasAStep : Prop :=
  ∀ (m : List Byte) (s : State), Computes m s → s.busy = true →
    (s.turn = .sequencer → ∃ t, step s = .next t) ∧
    ∀ (a : Access) (t : State), s.turn = .host a → step s = .next t →
      t.busy = true ∧ t.ph = s.ph ∧ t.t = s.t ∧ (t.turn = .sequencer → ∃ u, step t = .next u)

/-- R196, R37: what an engine that is not busy holds in its internal registers never reaches the host: two such states
that the host cannot tell apart stay so for any number of steps, whatever the turns. The states agree in the model's
own `agenda`, `answers` and `resets` (log entries 1, 3 and 5). -/
def Obligations.LeftoversNeverReachTheHost : Prop :=
  ∀ (s t : State), SameToHost s t → s.busy = false →
    ∀ n : Nat, sameOutcome (Host.Core.run core n s) (Host.Core.run core n t)

/-! ## The functions -/

/-- R10, R14: addition wraps, and assembly and disassembly of bytes are inverse. -/
def Obligations.PrimitiveArithmetic : Prop :=
  (∀ x y : Word, (add32 x y).toNat = (x.toNat + y.toNat) % 2 ^ 32) ∧
  (∀ b0 b1 b2 b3 : Byte, (be32 b0 b1 b2 b3).toNat =
    b0.toNat * 2 ^ 24 + b1.toNat * 2 ^ 16 + b2.toNat * 2 ^ 8 + b3.toNat) ∧
  (∀ b0 b1 b2 b3 : Byte, byteBe32 (be32 b0 b1 b2 b3) 0 = b0 ∧ byteBe32 (be32 b0 b1 b2 b3) 1 = b1 ∧
    byteBe32 (be32 b0 b1 b2 b3) 2 = b2 ∧ byteBe32 (be32 b0 b1 b2 b3) 3 = b3) ∧
  (∀ (v : BitVec 64) (q : Nat), q < 8 → (byteBe64 v q).toNat = v.toNat / 2 ^ (56 - 8 * q) % 2 ^ 8)

/-- R11, R12: the bits of a rotation and of a shift. -/
def Obligations.RotateAndShiftBits : Prop :=
  ∀ (x : Word) (n : Amount) (i : Nat), i < 32 →
    (rotr x n).getLsbD i = x.getLsbD ((i + n.val) % 32) ∧
    (shr x n).getLsbD i = (decide (i + n.val < 32) && x.getLsbD (i + n.val))

/-- R130, R131, R140, R141, by R11 and R12: the bits of the four mixing functions. -/
def Obligations.MixingFunctionBits : Prop :=
  ∀ (x : Word) (i : Nat), i < 32 →
    (ssig0 x).getLsbD i = ((x.getLsbD ((i + 7) % 32) ^^ x.getLsbD ((i + 18) % 32)) ^^
      (decide (i ≤ 28) && x.getLsbD (i + 3))) ∧
    (ssig1 x).getLsbD i = ((x.getLsbD ((i + 17) % 32) ^^ x.getLsbD ((i + 19) % 32)) ^^
      (decide (i ≤ 21) && x.getLsbD (i + 10))) ∧
    (bsig0 x).getLsbD i = ((x.getLsbD ((i + 2) % 32) ^^ x.getLsbD ((i + 13) % 32)) ^^ x.getLsbD ((i + 22) % 32)) ∧
    (bsig1 x).getLsbD i = ((x.getLsbD ((i + 6) % 32) ^^ x.getLsbD ((i + 11) % 32)) ^^ x.getLsbD ((i + 25) % 32))

/-- R142, R143: `Ch` selects bit by bit, `Maj` is the value two of three have. -/
def Obligations.ChooseAndMajority : Prop :=
  ∀ (x y z : Word) (i : Nat), i < 32 →
    (ch x y z).getLsbD i = (if x.getLsbD i = true then y.getLsbD i else z.getLsbD i) ∧
    (maj x y z).getLsbD i = (if x.getLsbD i = y.getLsbD i then x.getLsbD i else z.getLsbD i)

/-- R132: the schedule is the block's words and then the recurrence. -/
def Obligations.ScheduleRecurrence : Prop :=
  ∀ (b : Block) (i : Nat) (hi : i < 64),
    (i < 16 → ∀ (h4 : 4 * i + 3 < 64), (expand b)[i] = be32 b[4 * i] b[4 * i + 1] b[4 * i + 2] b[4 * i + 3]) ∧
    (16 ≤ i → (expand b)[i].toNat = ((expand b)[i - 16].toNat + (ssig0 (expand b)[i - 15]).toNat +
      (expand b)[i - 7].toNat + (ssig1 (expand b)[i - 2]).toNat) % 2 ^ 32)

/-- R112, R121: the padded length and the number of blocks. -/
def Obligations.PaddedLengthFacts : Prop :=
  ∀ len : Nat, blockCount len = (len + 8) / 64 + 1 ∧ paddedBits (8 * len) = 512 * blockCount len ∧
    8 * len + 65 ≤ paddedBits (8 * len) ∧ paddedBits (8 * len) - (8 * len + 65) < 512

/-- R111, R113: the padded bits, eight at a time and the first most significant, are the padded bytes. -/
def Obligations.PaddedBitsAreThePaddedBytes : Prop :=
  ∀ (m : List Byte) (p q : Nat), m.length < 2 ^ 61 → p < 64 * blockCount m.length → q < 8 →
    paddedBit m (8 * p + q) = (padByte m p).getLsbD (7 - q)

/-- R114, R120: padding and then segmenting gives, block by block, what the engine pads on its own. -/
def Obligations.PadThenSegmentIsPerBlock : Prop :=
  ∀ m : List Byte, m.length < 2 ^ 61 →
    segment (padBits m) = .ok ((List.range (blockCount m.length)).map (blockOf m))

/-- R161, R172: every message below 2^61 bytes has a digest, every longer one fails with MessageTooLarge, and nothing fails
with InvalidPaddingLength. -/
def Obligations.DigestIsTotalBelowTheBound : Prop :=
  ∀ m : List Byte, (m.length < 2 ^ 61 → ∃ d, digestOf m = .ok d) ∧
    (2 ^ 61 ≤ m.length → digestOf m = .error .messageTooLarge)

/-! ## The constants -/

/-- R34, R35: `K[t]` is `floor(cbrt(p_t * 2^96)) mod 2^32` and `IV[k]` is `floor(sqrt(p_k * 2^64)) mod 2^32`, for the first
64 and the first 8 primes. -/
def Obligations.ConstantTablesAreTheRoots : Prop :=
  (firstPrimes.length = 64 ∧ firstPrimes.Pairwise (· < ·) ∧ ∀ p, p ∈ firstPrimes ↔ p.Prime ∧ p ≤ 311) ∧
  (∀ t (ht : t < 64), ∃ p v : Nat, firstPrimes[t]? = some p ∧ v ^ 3 ≤ p * 2 ^ 96 ∧ p * 2 ^ 96 < (v + 1) ^ 3 ∧
    roundConstants[t].toNat = v % 2 ^ 32) ∧
  (∀ k (hk : k < 8), ∃ p v : Nat, firstPrimes[k]? = some p ∧ v ^ 2 ≤ p * 2 ^ 64 ∧ p * 2 ^ 64 < (v + 1) ^ 2 ∧
    initialHash[k].toNat = v % 2 ^ 32)
end

