-- ==== Sys2Proof/Laws/Functions.lean ====
section
/-! SUPPORT. The equations of the recursive functions (schedule, rounds, chain) and of table reads, which proofs cite instead
of unfolding them. -/

namespace Sys2Proof.Machine

/-- An entry of the schedule is computed from the entries before it, however many entries are asked for (R132). -/
theorem expandTo_getElem (b : Block) (m n : Nat) (h : n < m) : (expandTo b m)[n] = scheduleEntry b (expandTo b n) := by
  induction m with
  | zero => omega
  | succ m ih =>
    simp only [expandTo, Vector.getElem_push]
    split
    · exact ih _
    · obtain rfl : n = m := by omega
      rfl

theorem expand_getElem (b : Block) (n : Nat) (h : n < 64) : (expand b)[n] = scheduleEntry b (expandTo b n) :=
  expandTo_getElem b 64 n h

/-- One more round (R145). -/
theorem rounds_succ (w : Schedule) (r : Eight) (t : BitVec 6) :
    rounds w r (t.toNat + 1) = round t (rounds w r t.toNat) (at64 w t) := by
  simp [rounds]

/-- One more block (R150). -/
theorem hashAfter_succ (m : List Byte) (j : Nat) : hashAfter m (j + 1) = compress (hashAfter m j) (blockOf m j) := by
  simp [hashAfter, hashBlocks, List.range_succ]

/-- A table read at an index counted back from `t`, as EXP makes it (R134). -/
theorem at64_sub (w : Schedule) (t k : BitVec 6) (h : k.toNat ≤ t.toNat) :
    at64 w (t - k) = w[t.toNat - k.toNat]'(by omega) := by
  unfold at64
  congr 1
  simp [BitVec.toNat_sub]
  omega

end Sys2Proof.Machine
end

