-- ==== Sys2Proof/Laws/State.lean ====
section
/-! SUPPORT. One lemma per field per register update, true by rfl, so that no later proof unfolds an update. -/

namespace Sys2Proof.Machine

@[simp] theorem State.setSeq_h (s : State) (p : Phase) (x : BitVec 6) : (s.setSeq p x).h = s.h := rfl
@[simp] theorem State.setSeq_r (s : State) (p : Phase) (x : BitVec 6) : (s.setSeq p x).r = s.r := rfl
@[simp] theorem State.setSeq_w (s : State) (p : Phase) (x : BitVec 6) : (s.setSeq p x).w = s.w := rfl
@[simp] theorem State.setSeq_b (s : State) (p : Phase) (x : BitVec 6) : (s.setSeq p x).b = s.b := rfl
@[simp] theorem State.setSeq_dg (s : State) (p : Phase) (x : BitVec 6) : (s.setSeq p x).dg = s.dg := rfl
@[simp] theorem State.setSeq_len (s : State) (p : Phase) (x : BitVec 6) : (s.setSeq p x).len = s.len := rfl
@[simp] theorem State.setSeq_lreg (s : State) (p : Phase) (x : BitVec 6) : (s.setSeq p x).lreg = s.lreg := rfl
@[simp] theorem State.setSeq_lb (s : State) (p : Phase) (x : BitVec 6) : (s.setSeq p x).lb = s.lb := rfl
@[simp] theorem State.setSeq_ph (s : State) (p : Phase) (x : BitVec 6) : (s.setSeq p x).ph = p.code := rfl
@[simp] theorem State.setSeq_t (s : State) (p : Phase) (x : BitVec 6) : (s.setSeq p x).t = x := rfl
@[simp] theorem State.setSeq_pb (s : State) (p : Phase) (x : BitVec 6) : (s.setSeq p x).pb = s.pb := rfl
@[simp] theorem State.setSeq_nb (s : State) (p : Phase) (x : BitVec 6) : (s.setSeq p x).nb = s.nb := rfl
@[simp] theorem State.setSeq_j (s : State) (p : Phase) (x : BitVec 6) : (s.setSeq p x).j = s.j := rfl
@[simp] theorem State.setSeq_ecode (s : State) (p : Phase) (x : BitVec 6) : (s.setSeq p x).ecode = s.ecode := rfl
@[simp] theorem State.setSeq_mem (s : State) (p : Phase) (x : BitVec 6) : (s.setSeq p x).mem = s.mem := rfl
@[simp] theorem State.setSeq_agenda (s : State) (p : Phase) (x : BitVec 6) : (s.setSeq p x).agenda = s.agenda := rfl
@[simp] theorem State.setSeq_answers (s : State) (p : Phase) (x : BitVec 6) : (s.setSeq p x).answers = s.answers := rfl
@[simp] theorem State.setSeq_resets (s : State) (p : Phase) (x : BitVec 6) : (s.setSeq p x).resets = s.resets := rfl

@[simp] theorem State.setH_h (s : State) (x : Eight) : (s.setH x).h = x := rfl
@[simp] theorem State.setH_r (s : State) (x : Eight) : (s.setH x).r = s.r := rfl
@[simp] theorem State.setH_w (s : State) (x : Eight) : (s.setH x).w = s.w := rfl
@[simp] theorem State.setH_b (s : State) (x : Eight) : (s.setH x).b = s.b := rfl
@[simp] theorem State.setH_dg (s : State) (x : Eight) : (s.setH x).dg = s.dg := rfl
@[simp] theorem State.setH_len (s : State) (x : Eight) : (s.setH x).len = s.len := rfl
@[simp] theorem State.setH_lreg (s : State) (x : Eight) : (s.setH x).lreg = s.lreg := rfl
@[simp] theorem State.setH_lb (s : State) (x : Eight) : (s.setH x).lb = s.lb := rfl
@[simp] theorem State.setH_ph (s : State) (x : Eight) : (s.setH x).ph = s.ph := rfl
@[simp] theorem State.setH_t (s : State) (x : Eight) : (s.setH x).t = s.t := rfl
@[simp] theorem State.setH_pb (s : State) (x : Eight) : (s.setH x).pb = s.pb := rfl
@[simp] theorem State.setH_nb (s : State) (x : Eight) : (s.setH x).nb = s.nb := rfl
@[simp] theorem State.setH_j (s : State) (x : Eight) : (s.setH x).j = s.j := rfl
@[simp] theorem State.setH_ecode (s : State) (x : Eight) : (s.setH x).ecode = s.ecode := rfl
@[simp] theorem State.setH_mem (s : State) (x : Eight) : (s.setH x).mem = s.mem := rfl
@[simp] theorem State.setH_agenda (s : State) (x : Eight) : (s.setH x).agenda = s.agenda := rfl
@[simp] theorem State.setH_answers (s : State) (x : Eight) : (s.setH x).answers = s.answers := rfl
@[simp] theorem State.setH_resets (s : State) (x : Eight) : (s.setH x).resets = s.resets := rfl

@[simp] theorem State.setR_h (s : State) (x : Eight) : (s.setR x).h = s.h := rfl
@[simp] theorem State.setR_r (s : State) (x : Eight) : (s.setR x).r = x := rfl
@[simp] theorem State.setR_w (s : State) (x : Eight) : (s.setR x).w = s.w := rfl
@[simp] theorem State.setR_b (s : State) (x : Eight) : (s.setR x).b = s.b := rfl
@[simp] theorem State.setR_dg (s : State) (x : Eight) : (s.setR x).dg = s.dg := rfl
@[simp] theorem State.setR_len (s : State) (x : Eight) : (s.setR x).len = s.len := rfl
@[simp] theorem State.setR_lreg (s : State) (x : Eight) : (s.setR x).lreg = s.lreg := rfl
@[simp] theorem State.setR_lb (s : State) (x : Eight) : (s.setR x).lb = s.lb := rfl
@[simp] theorem State.setR_ph (s : State) (x : Eight) : (s.setR x).ph = s.ph := rfl
@[simp] theorem State.setR_t (s : State) (x : Eight) : (s.setR x).t = s.t := rfl
@[simp] theorem State.setR_pb (s : State) (x : Eight) : (s.setR x).pb = s.pb := rfl
@[simp] theorem State.setR_nb (s : State) (x : Eight) : (s.setR x).nb = s.nb := rfl
@[simp] theorem State.setR_j (s : State) (x : Eight) : (s.setR x).j = s.j := rfl
@[simp] theorem State.setR_ecode (s : State) (x : Eight) : (s.setR x).ecode = s.ecode := rfl
@[simp] theorem State.setR_mem (s : State) (x : Eight) : (s.setR x).mem = s.mem := rfl
@[simp] theorem State.setR_agenda (s : State) (x : Eight) : (s.setR x).agenda = s.agenda := rfl
@[simp] theorem State.setR_answers (s : State) (x : Eight) : (s.setR x).answers = s.answers := rfl
@[simp] theorem State.setR_resets (s : State) (x : Eight) : (s.setR x).resets = s.resets := rfl

@[simp] theorem State.setW_h (s : State) (i : BitVec 6) (x : Word) : (s.setW i x).h = s.h := rfl
@[simp] theorem State.setW_r (s : State) (i : BitVec 6) (x : Word) : (s.setW i x).r = s.r := rfl
@[simp] theorem State.setW_w (s : State) (i : BitVec 6) (x : Word) : (s.setW i x).w = s.w.set i.toNat x i.isLt := rfl
@[simp] theorem State.setW_b (s : State) (i : BitVec 6) (x : Word) : (s.setW i x).b = s.b := rfl
@[simp] theorem State.setW_dg (s : State) (i : BitVec 6) (x : Word) : (s.setW i x).dg = s.dg := rfl
@[simp] theorem State.setW_len (s : State) (i : BitVec 6) (x : Word) : (s.setW i x).len = s.len := rfl
@[simp] theorem State.setW_lreg (s : State) (i : BitVec 6) (x : Word) : (s.setW i x).lreg = s.lreg := rfl
@[simp] theorem State.setW_lb (s : State) (i : BitVec 6) (x : Word) : (s.setW i x).lb = s.lb := rfl
@[simp] theorem State.setW_ph (s : State) (i : BitVec 6) (x : Word) : (s.setW i x).ph = s.ph := rfl
@[simp] theorem State.setW_t (s : State) (i : BitVec 6) (x : Word) : (s.setW i x).t = s.t := rfl
@[simp] theorem State.setW_pb (s : State) (i : BitVec 6) (x : Word) : (s.setW i x).pb = s.pb := rfl
@[simp] theorem State.setW_nb (s : State) (i : BitVec 6) (x : Word) : (s.setW i x).nb = s.nb := rfl
@[simp] theorem State.setW_j (s : State) (i : BitVec 6) (x : Word) : (s.setW i x).j = s.j := rfl
@[simp] theorem State.setW_ecode (s : State) (i : BitVec 6) (x : Word) : (s.setW i x).ecode = s.ecode := rfl
@[simp] theorem State.setW_mem (s : State) (i : BitVec 6) (x : Word) : (s.setW i x).mem = s.mem := rfl
@[simp] theorem State.setW_agenda (s : State) (i : BitVec 6) (x : Word) : (s.setW i x).agenda = s.agenda := rfl
@[simp] theorem State.setW_answers (s : State) (i : BitVec 6) (x : Word) : (s.setW i x).answers = s.answers := rfl
@[simp] theorem State.setW_resets (s : State) (i : BitVec 6) (x : Word) : (s.setW i x).resets = s.resets := rfl

@[simp] theorem State.setB_h (s : State) (x : Block) : (s.setB x).h = s.h := rfl
@[simp] theorem State.setB_r (s : State) (x : Block) : (s.setB x).r = s.r := rfl
@[simp] theorem State.setB_w (s : State) (x : Block) : (s.setB x).w = s.w := rfl
@[simp] theorem State.setB_b (s : State) (x : Block) : (s.setB x).b = x := rfl
@[simp] theorem State.setB_dg (s : State) (x : Block) : (s.setB x).dg = s.dg := rfl
@[simp] theorem State.setB_len (s : State) (x : Block) : (s.setB x).len = s.len := rfl
@[simp] theorem State.setB_lreg (s : State) (x : Block) : (s.setB x).lreg = s.lreg := rfl
@[simp] theorem State.setB_lb (s : State) (x : Block) : (s.setB x).lb = s.lb := rfl
@[simp] theorem State.setB_ph (s : State) (x : Block) : (s.setB x).ph = s.ph := rfl
@[simp] theorem State.setB_t (s : State) (x : Block) : (s.setB x).t = s.t := rfl
@[simp] theorem State.setB_pb (s : State) (x : Block) : (s.setB x).pb = s.pb := rfl
@[simp] theorem State.setB_nb (s : State) (x : Block) : (s.setB x).nb = s.nb := rfl
@[simp] theorem State.setB_j (s : State) (x : Block) : (s.setB x).j = s.j := rfl
@[simp] theorem State.setB_ecode (s : State) (x : Block) : (s.setB x).ecode = s.ecode := rfl
@[simp] theorem State.setB_mem (s : State) (x : Block) : (s.setB x).mem = s.mem := rfl
@[simp] theorem State.setB_agenda (s : State) (x : Block) : (s.setB x).agenda = s.agenda := rfl
@[simp] theorem State.setB_answers (s : State) (x : Block) : (s.setB x).answers = s.answers := rfl
@[simp] theorem State.setB_resets (s : State) (x : Block) : (s.setB x).resets = s.resets := rfl

@[simp] theorem State.setDg_h (s : State) (x : DigestBytes) : (s.setDg x).h = s.h := rfl
@[simp] theorem State.setDg_r (s : State) (x : DigestBytes) : (s.setDg x).r = s.r := rfl
@[simp] theorem State.setDg_w (s : State) (x : DigestBytes) : (s.setDg x).w = s.w := rfl
@[simp] theorem State.setDg_b (s : State) (x : DigestBytes) : (s.setDg x).b = s.b := rfl
@[simp] theorem State.setDg_dg (s : State) (x : DigestBytes) : (s.setDg x).dg = x := rfl
@[simp] theorem State.setDg_len (s : State) (x : DigestBytes) : (s.setDg x).len = s.len := rfl
@[simp] theorem State.setDg_lreg (s : State) (x : DigestBytes) : (s.setDg x).lreg = s.lreg := rfl
@[simp] theorem State.setDg_lb (s : State) (x : DigestBytes) : (s.setDg x).lb = s.lb := rfl
@[simp] theorem State.setDg_ph (s : State) (x : DigestBytes) : (s.setDg x).ph = s.ph := rfl
@[simp] theorem State.setDg_t (s : State) (x : DigestBytes) : (s.setDg x).t = s.t := rfl
@[simp] theorem State.setDg_pb (s : State) (x : DigestBytes) : (s.setDg x).pb = s.pb := rfl
@[simp] theorem State.setDg_nb (s : State) (x : DigestBytes) : (s.setDg x).nb = s.nb := rfl
@[simp] theorem State.setDg_j (s : State) (x : DigestBytes) : (s.setDg x).j = s.j := rfl
@[simp] theorem State.setDg_ecode (s : State) (x : DigestBytes) : (s.setDg x).ecode = s.ecode := rfl
@[simp] theorem State.setDg_mem (s : State) (x : DigestBytes) : (s.setDg x).mem = s.mem := rfl
@[simp] theorem State.setDg_agenda (s : State) (x : DigestBytes) : (s.setDg x).agenda = s.agenda := rfl
@[simp] theorem State.setDg_answers (s : State) (x : DigestBytes) : (s.setDg x).answers = s.answers := rfl
@[simp] theorem State.setDg_resets (s : State) (x : DigestBytes) : (s.setDg x).resets = s.resets := rfl

@[simp] theorem State.setLen_h (s : State) (x : BitVec 64) : (s.setLen x).h = s.h := rfl
@[simp] theorem State.setLen_r (s : State) (x : BitVec 64) : (s.setLen x).r = s.r := rfl
@[simp] theorem State.setLen_w (s : State) (x : BitVec 64) : (s.setLen x).w = s.w := rfl
@[simp] theorem State.setLen_b (s : State) (x : BitVec 64) : (s.setLen x).b = s.b := rfl
@[simp] theorem State.setLen_dg (s : State) (x : BitVec 64) : (s.setLen x).dg = s.dg := rfl
@[simp] theorem State.setLen_len (s : State) (x : BitVec 64) : (s.setLen x).len = x := rfl
@[simp] theorem State.setLen_lreg (s : State) (x : BitVec 64) : (s.setLen x).lreg = s.lreg := rfl
@[simp] theorem State.setLen_lb (s : State) (x : BitVec 64) : (s.setLen x).lb = s.lb := rfl
@[simp] theorem State.setLen_ph (s : State) (x : BitVec 64) : (s.setLen x).ph = s.ph := rfl
@[simp] theorem State.setLen_t (s : State) (x : BitVec 64) : (s.setLen x).t = s.t := rfl
@[simp] theorem State.setLen_pb (s : State) (x : BitVec 64) : (s.setLen x).pb = s.pb := rfl
@[simp] theorem State.setLen_nb (s : State) (x : BitVec 64) : (s.setLen x).nb = s.nb := rfl
@[simp] theorem State.setLen_j (s : State) (x : BitVec 64) : (s.setLen x).j = s.j := rfl
@[simp] theorem State.setLen_ecode (s : State) (x : BitVec 64) : (s.setLen x).ecode = s.ecode := rfl
@[simp] theorem State.setLen_mem (s : State) (x : BitVec 64) : (s.setLen x).mem = s.mem := rfl
@[simp] theorem State.setLen_agenda (s : State) (x : BitVec 64) : (s.setLen x).agenda = s.agenda := rfl
@[simp] theorem State.setLen_answers (s : State) (x : BitVec 64) : (s.setLen x).answers = s.answers := rfl
@[simp] theorem State.setLen_resets (s : State) (x : BitVec 64) : (s.setLen x).resets = s.resets := rfl

@[simp] theorem State.setLreg_h (s : State) (x : BitVec 64) : (s.setLreg x).h = s.h := rfl
@[simp] theorem State.setLreg_r (s : State) (x : BitVec 64) : (s.setLreg x).r = s.r := rfl
@[simp] theorem State.setLreg_w (s : State) (x : BitVec 64) : (s.setLreg x).w = s.w := rfl
@[simp] theorem State.setLreg_b (s : State) (x : BitVec 64) : (s.setLreg x).b = s.b := rfl
@[simp] theorem State.setLreg_dg (s : State) (x : BitVec 64) : (s.setLreg x).dg = s.dg := rfl
@[simp] theorem State.setLreg_len (s : State) (x : BitVec 64) : (s.setLreg x).len = s.len := rfl
@[simp] theorem State.setLreg_lreg (s : State) (x : BitVec 64) : (s.setLreg x).lreg = x := rfl
@[simp] theorem State.setLreg_lb (s : State) (x : BitVec 64) : (s.setLreg x).lb = s.lb := rfl
@[simp] theorem State.setLreg_ph (s : State) (x : BitVec 64) : (s.setLreg x).ph = s.ph := rfl
@[simp] theorem State.setLreg_t (s : State) (x : BitVec 64) : (s.setLreg x).t = s.t := rfl
@[simp] theorem State.setLreg_pb (s : State) (x : BitVec 64) : (s.setLreg x).pb = s.pb := rfl
@[simp] theorem State.setLreg_nb (s : State) (x : BitVec 64) : (s.setLreg x).nb = s.nb := rfl
@[simp] theorem State.setLreg_j (s : State) (x : BitVec 64) : (s.setLreg x).j = s.j := rfl
@[simp] theorem State.setLreg_ecode (s : State) (x : BitVec 64) : (s.setLreg x).ecode = s.ecode := rfl
@[simp] theorem State.setLreg_mem (s : State) (x : BitVec 64) : (s.setLreg x).mem = s.mem := rfl
@[simp] theorem State.setLreg_agenda (s : State) (x : BitVec 64) : (s.setLreg x).agenda = s.agenda := rfl
@[simp] theorem State.setLreg_answers (s : State) (x : BitVec 64) : (s.setLreg x).answers = s.answers := rfl
@[simp] theorem State.setLreg_resets (s : State) (x : BitVec 64) : (s.setLreg x).resets = s.resets := rfl

@[simp] theorem State.setLb_h (s : State) (x : BitVec 64) : (s.setLb x).h = s.h := rfl
@[simp] theorem State.setLb_r (s : State) (x : BitVec 64) : (s.setLb x).r = s.r := rfl
@[simp] theorem State.setLb_w (s : State) (x : BitVec 64) : (s.setLb x).w = s.w := rfl
@[simp] theorem State.setLb_b (s : State) (x : BitVec 64) : (s.setLb x).b = s.b := rfl
@[simp] theorem State.setLb_dg (s : State) (x : BitVec 64) : (s.setLb x).dg = s.dg := rfl
@[simp] theorem State.setLb_len (s : State) (x : BitVec 64) : (s.setLb x).len = s.len := rfl
@[simp] theorem State.setLb_lreg (s : State) (x : BitVec 64) : (s.setLb x).lreg = s.lreg := rfl
@[simp] theorem State.setLb_lb (s : State) (x : BitVec 64) : (s.setLb x).lb = x := rfl
@[simp] theorem State.setLb_ph (s : State) (x : BitVec 64) : (s.setLb x).ph = s.ph := rfl
@[simp] theorem State.setLb_t (s : State) (x : BitVec 64) : (s.setLb x).t = s.t := rfl
@[simp] theorem State.setLb_pb (s : State) (x : BitVec 64) : (s.setLb x).pb = s.pb := rfl
@[simp] theorem State.setLb_nb (s : State) (x : BitVec 64) : (s.setLb x).nb = s.nb := rfl
@[simp] theorem State.setLb_j (s : State) (x : BitVec 64) : (s.setLb x).j = s.j := rfl
@[simp] theorem State.setLb_ecode (s : State) (x : BitVec 64) : (s.setLb x).ecode = s.ecode := rfl
@[simp] theorem State.setLb_mem (s : State) (x : BitVec 64) : (s.setLb x).mem = s.mem := rfl
@[simp] theorem State.setLb_agenda (s : State) (x : BitVec 64) : (s.setLb x).agenda = s.agenda := rfl
@[simp] theorem State.setLb_answers (s : State) (x : BitVec 64) : (s.setLb x).answers = s.answers := rfl
@[simp] theorem State.setLb_resets (s : State) (x : BitVec 64) : (s.setLb x).resets = s.resets := rfl

@[simp] theorem State.setPb_h (s : State) (x : BitVec 65) : (s.setPb x).h = s.h := rfl
@[simp] theorem State.setPb_r (s : State) (x : BitVec 65) : (s.setPb x).r = s.r := rfl
@[simp] theorem State.setPb_w (s : State) (x : BitVec 65) : (s.setPb x).w = s.w := rfl
@[simp] theorem State.setPb_b (s : State) (x : BitVec 65) : (s.setPb x).b = s.b := rfl
@[simp] theorem State.setPb_dg (s : State) (x : BitVec 65) : (s.setPb x).dg = s.dg := rfl
@[simp] theorem State.setPb_len (s : State) (x : BitVec 65) : (s.setPb x).len = s.len := rfl
@[simp] theorem State.setPb_lreg (s : State) (x : BitVec 65) : (s.setPb x).lreg = s.lreg := rfl
@[simp] theorem State.setPb_lb (s : State) (x : BitVec 65) : (s.setPb x).lb = s.lb := rfl
@[simp] theorem State.setPb_ph (s : State) (x : BitVec 65) : (s.setPb x).ph = s.ph := rfl
@[simp] theorem State.setPb_t (s : State) (x : BitVec 65) : (s.setPb x).t = s.t := rfl
@[simp] theorem State.setPb_pb (s : State) (x : BitVec 65) : (s.setPb x).pb = x := rfl
@[simp] theorem State.setPb_nb (s : State) (x : BitVec 65) : (s.setPb x).nb = s.nb := rfl
@[simp] theorem State.setPb_j (s : State) (x : BitVec 65) : (s.setPb x).j = s.j := rfl
@[simp] theorem State.setPb_ecode (s : State) (x : BitVec 65) : (s.setPb x).ecode = s.ecode := rfl
@[simp] theorem State.setPb_mem (s : State) (x : BitVec 65) : (s.setPb x).mem = s.mem := rfl
@[simp] theorem State.setPb_agenda (s : State) (x : BitVec 65) : (s.setPb x).agenda = s.agenda := rfl
@[simp] theorem State.setPb_answers (s : State) (x : BitVec 65) : (s.setPb x).answers = s.answers := rfl
@[simp] theorem State.setPb_resets (s : State) (x : BitVec 65) : (s.setPb x).resets = s.resets := rfl

@[simp] theorem State.setNb_h (s : State) (x : BitVec 56) : (s.setNb x).h = s.h := rfl
@[simp] theorem State.setNb_r (s : State) (x : BitVec 56) : (s.setNb x).r = s.r := rfl
@[simp] theorem State.setNb_w (s : State) (x : BitVec 56) : (s.setNb x).w = s.w := rfl
@[simp] theorem State.setNb_b (s : State) (x : BitVec 56) : (s.setNb x).b = s.b := rfl
@[simp] theorem State.setNb_dg (s : State) (x : BitVec 56) : (s.setNb x).dg = s.dg := rfl
@[simp] theorem State.setNb_len (s : State) (x : BitVec 56) : (s.setNb x).len = s.len := rfl
@[simp] theorem State.setNb_lreg (s : State) (x : BitVec 56) : (s.setNb x).lreg = s.lreg := rfl
@[simp] theorem State.setNb_lb (s : State) (x : BitVec 56) : (s.setNb x).lb = s.lb := rfl
@[simp] theorem State.setNb_ph (s : State) (x : BitVec 56) : (s.setNb x).ph = s.ph := rfl
@[simp] theorem State.setNb_t (s : State) (x : BitVec 56) : (s.setNb x).t = s.t := rfl
@[simp] theorem State.setNb_pb (s : State) (x : BitVec 56) : (s.setNb x).pb = s.pb := rfl
@[simp] theorem State.setNb_nb (s : State) (x : BitVec 56) : (s.setNb x).nb = x := rfl
@[simp] theorem State.setNb_j (s : State) (x : BitVec 56) : (s.setNb x).j = s.j := rfl
@[simp] theorem State.setNb_ecode (s : State) (x : BitVec 56) : (s.setNb x).ecode = s.ecode := rfl
@[simp] theorem State.setNb_mem (s : State) (x : BitVec 56) : (s.setNb x).mem = s.mem := rfl
@[simp] theorem State.setNb_agenda (s : State) (x : BitVec 56) : (s.setNb x).agenda = s.agenda := rfl
@[simp] theorem State.setNb_answers (s : State) (x : BitVec 56) : (s.setNb x).answers = s.answers := rfl
@[simp] theorem State.setNb_resets (s : State) (x : BitVec 56) : (s.setNb x).resets = s.resets := rfl

@[simp] theorem State.setJ_h (s : State) (x : BitVec 56) : (s.setJ x).h = s.h := rfl
@[simp] theorem State.setJ_r (s : State) (x : BitVec 56) : (s.setJ x).r = s.r := rfl
@[simp] theorem State.setJ_w (s : State) (x : BitVec 56) : (s.setJ x).w = s.w := rfl
@[simp] theorem State.setJ_b (s : State) (x : BitVec 56) : (s.setJ x).b = s.b := rfl
@[simp] theorem State.setJ_dg (s : State) (x : BitVec 56) : (s.setJ x).dg = s.dg := rfl
@[simp] theorem State.setJ_len (s : State) (x : BitVec 56) : (s.setJ x).len = s.len := rfl
@[simp] theorem State.setJ_lreg (s : State) (x : BitVec 56) : (s.setJ x).lreg = s.lreg := rfl
@[simp] theorem State.setJ_lb (s : State) (x : BitVec 56) : (s.setJ x).lb = s.lb := rfl
@[simp] theorem State.setJ_ph (s : State) (x : BitVec 56) : (s.setJ x).ph = s.ph := rfl
@[simp] theorem State.setJ_t (s : State) (x : BitVec 56) : (s.setJ x).t = s.t := rfl
@[simp] theorem State.setJ_pb (s : State) (x : BitVec 56) : (s.setJ x).pb = s.pb := rfl
@[simp] theorem State.setJ_nb (s : State) (x : BitVec 56) : (s.setJ x).nb = s.nb := rfl
@[simp] theorem State.setJ_j (s : State) (x : BitVec 56) : (s.setJ x).j = x := rfl
@[simp] theorem State.setJ_ecode (s : State) (x : BitVec 56) : (s.setJ x).ecode = s.ecode := rfl
@[simp] theorem State.setJ_mem (s : State) (x : BitVec 56) : (s.setJ x).mem = s.mem := rfl
@[simp] theorem State.setJ_agenda (s : State) (x : BitVec 56) : (s.setJ x).agenda = s.agenda := rfl
@[simp] theorem State.setJ_answers (s : State) (x : BitVec 56) : (s.setJ x).answers = s.answers := rfl
@[simp] theorem State.setJ_resets (s : State) (x : BitVec 56) : (s.setJ x).resets = s.resets := rfl

@[simp] theorem State.setEcode_h (s : State) (x : BitVec 4) : (s.setEcode x).h = s.h := rfl
@[simp] theorem State.setEcode_r (s : State) (x : BitVec 4) : (s.setEcode x).r = s.r := rfl
@[simp] theorem State.setEcode_w (s : State) (x : BitVec 4) : (s.setEcode x).w = s.w := rfl
@[simp] theorem State.setEcode_b (s : State) (x : BitVec 4) : (s.setEcode x).b = s.b := rfl
@[simp] theorem State.setEcode_dg (s : State) (x : BitVec 4) : (s.setEcode x).dg = s.dg := rfl
@[simp] theorem State.setEcode_len (s : State) (x : BitVec 4) : (s.setEcode x).len = s.len := rfl
@[simp] theorem State.setEcode_lreg (s : State) (x : BitVec 4) : (s.setEcode x).lreg = s.lreg := rfl
@[simp] theorem State.setEcode_lb (s : State) (x : BitVec 4) : (s.setEcode x).lb = s.lb := rfl
@[simp] theorem State.setEcode_ph (s : State) (x : BitVec 4) : (s.setEcode x).ph = s.ph := rfl
@[simp] theorem State.setEcode_t (s : State) (x : BitVec 4) : (s.setEcode x).t = s.t := rfl
@[simp] theorem State.setEcode_pb (s : State) (x : BitVec 4) : (s.setEcode x).pb = s.pb := rfl
@[simp] theorem State.setEcode_nb (s : State) (x : BitVec 4) : (s.setEcode x).nb = s.nb := rfl
@[simp] theorem State.setEcode_j (s : State) (x : BitVec 4) : (s.setEcode x).j = s.j := rfl
@[simp] theorem State.setEcode_ecode (s : State) (x : BitVec 4) : (s.setEcode x).ecode = x := rfl
@[simp] theorem State.setEcode_mem (s : State) (x : BitVec 4) : (s.setEcode x).mem = s.mem := rfl
@[simp] theorem State.setEcode_agenda (s : State) (x : BitVec 4) : (s.setEcode x).agenda = s.agenda := rfl
@[simp] theorem State.setEcode_answers (s : State) (x : BitVec 4) : (s.setEcode x).answers = s.answers := rfl
@[simp] theorem State.setEcode_resets (s : State) (x : BitVec 4) : (s.setEcode x).resets = s.resets := rfl

@[simp] theorem State.setMem_h (s : State) (x : List Host.Cell) : (s.setMem x).h = s.h := rfl
@[simp] theorem State.setMem_r (s : State) (x : List Host.Cell) : (s.setMem x).r = s.r := rfl
@[simp] theorem State.setMem_w (s : State) (x : List Host.Cell) : (s.setMem x).w = s.w := rfl
@[simp] theorem State.setMem_b (s : State) (x : List Host.Cell) : (s.setMem x).b = s.b := rfl
@[simp] theorem State.setMem_dg (s : State) (x : List Host.Cell) : (s.setMem x).dg = s.dg := rfl
@[simp] theorem State.setMem_len (s : State) (x : List Host.Cell) : (s.setMem x).len = s.len := rfl
@[simp] theorem State.setMem_lreg (s : State) (x : List Host.Cell) : (s.setMem x).lreg = s.lreg := rfl
@[simp] theorem State.setMem_lb (s : State) (x : List Host.Cell) : (s.setMem x).lb = s.lb := rfl
@[simp] theorem State.setMem_ph (s : State) (x : List Host.Cell) : (s.setMem x).ph = s.ph := rfl
@[simp] theorem State.setMem_t (s : State) (x : List Host.Cell) : (s.setMem x).t = s.t := rfl
@[simp] theorem State.setMem_pb (s : State) (x : List Host.Cell) : (s.setMem x).pb = s.pb := rfl
@[simp] theorem State.setMem_nb (s : State) (x : List Host.Cell) : (s.setMem x).nb = s.nb := rfl
@[simp] theorem State.setMem_j (s : State) (x : List Host.Cell) : (s.setMem x).j = s.j := rfl
@[simp] theorem State.setMem_ecode (s : State) (x : List Host.Cell) : (s.setMem x).ecode = s.ecode := rfl
@[simp] theorem State.setMem_mem (s : State) (x : List Host.Cell) : (s.setMem x).mem = x := rfl
@[simp] theorem State.setMem_agenda (s : State) (x : List Host.Cell) : (s.setMem x).agenda = s.agenda := rfl
@[simp] theorem State.setMem_answers (s : State) (x : List Host.Cell) : (s.setMem x).answers = s.answers := rfl
@[simp] theorem State.setMem_resets (s : State) (x : List Host.Cell) : (s.setMem x).resets = s.resets := rfl

@[simp] theorem State.answer_h (s : State) (x : Word) : (s.answer x).h = s.h := rfl
@[simp] theorem State.answer_r (s : State) (x : Word) : (s.answer x).r = s.r := rfl
@[simp] theorem State.answer_w (s : State) (x : Word) : (s.answer x).w = s.w := rfl
@[simp] theorem State.answer_b (s : State) (x : Word) : (s.answer x).b = s.b := rfl
@[simp] theorem State.answer_dg (s : State) (x : Word) : (s.answer x).dg = s.dg := rfl
@[simp] theorem State.answer_len (s : State) (x : Word) : (s.answer x).len = s.len := rfl
@[simp] theorem State.answer_lreg (s : State) (x : Word) : (s.answer x).lreg = s.lreg := rfl
@[simp] theorem State.answer_lb (s : State) (x : Word) : (s.answer x).lb = s.lb := rfl
@[simp] theorem State.answer_ph (s : State) (x : Word) : (s.answer x).ph = s.ph := rfl
@[simp] theorem State.answer_t (s : State) (x : Word) : (s.answer x).t = s.t := rfl
@[simp] theorem State.answer_pb (s : State) (x : Word) : (s.answer x).pb = s.pb := rfl
@[simp] theorem State.answer_nb (s : State) (x : Word) : (s.answer x).nb = s.nb := rfl
@[simp] theorem State.answer_j (s : State) (x : Word) : (s.answer x).j = s.j := rfl
@[simp] theorem State.answer_ecode (s : State) (x : Word) : (s.answer x).ecode = s.ecode := rfl
@[simp] theorem State.answer_mem (s : State) (x : Word) : (s.answer x).mem = s.mem := rfl
@[simp] theorem State.answer_agenda (s : State) (x : Word) : (s.answer x).agenda = s.agenda := rfl
@[simp] theorem State.answer_answers (s : State) (x : Word) : (s.answer x).answers = x :: s.answers := rfl
@[simp] theorem State.answer_resets (s : State) (x : Word) : (s.answer x).resets = s.resets := rfl

@[simp] theorem State.consume_h (s : State) : (s.consume).h = s.h := rfl
@[simp] theorem State.consume_r (s : State) : (s.consume).r = s.r := rfl
@[simp] theorem State.consume_w (s : State) : (s.consume).w = s.w := rfl
@[simp] theorem State.consume_b (s : State) : (s.consume).b = s.b := rfl
@[simp] theorem State.consume_dg (s : State) : (s.consume).dg = s.dg := rfl
@[simp] theorem State.consume_len (s : State) : (s.consume).len = s.len := rfl
@[simp] theorem State.consume_lreg (s : State) : (s.consume).lreg = s.lreg := rfl
@[simp] theorem State.consume_lb (s : State) : (s.consume).lb = s.lb := rfl
@[simp] theorem State.consume_ph (s : State) : (s.consume).ph = s.ph := rfl
@[simp] theorem State.consume_t (s : State) : (s.consume).t = s.t := rfl
@[simp] theorem State.consume_pb (s : State) : (s.consume).pb = s.pb := rfl
@[simp] theorem State.consume_nb (s : State) : (s.consume).nb = s.nb := rfl
@[simp] theorem State.consume_j (s : State) : (s.consume).j = s.j := rfl
@[simp] theorem State.consume_ecode (s : State) : (s.consume).ecode = s.ecode := rfl
@[simp] theorem State.consume_mem (s : State) : (s.consume).mem = s.mem := rfl
@[simp] theorem State.consume_agenda (s : State) : (s.consume).agenda = s.agenda.tail := rfl
@[simp] theorem State.consume_answers (s : State) : (s.consume).answers = s.answers := rfl
@[simp] theorem State.consume_resets (s : State) : (s.consume).resets = s.resets := rfl

end Sys2Proof.Machine
end

