-- ==== Sys2Proof/Laws/Memory.lean ====
section
/-! SUPPORT. The laws of the M-space operations: a read after a write, frames, and the canonical form. -/

namespace Sys2Proof.Machine

theorem Memory.read_write_same (m : List Host.Cell) (p : Nat) (b : Byte) :
    Memory.read (Memory.write m p b) p = some b := by
  induction m with
  | nil => simp [Memory.write, Memory.read]
  | cons c rest ih =>
    simp only [Memory.write]
    split
    · simp [Memory.read]
    · split
      · simp [Memory.read]
      · rw [Memory.read, if_neg (by omega), ih]

theorem Memory.read_write_other (m : List Host.Cell) {p q : Nat} (b : Byte) (h : q ≠ p) :
    Memory.read (Memory.write m p b) q = Memory.read m q := by
  induction m with
  | nil => simp [Memory.write, Memory.read, Ne.symm h]
  | cons c rest ih =>
    simp only [Memory.write]
    split
    · rw [Memory.read, if_neg (by simpa using Ne.symm h)]
    · split
      · rename_i h2
        rw [Memory.read, Memory.read, if_neg (by simpa using Ne.symm h), if_neg (by omega)]
      · simp only [Memory.read, ih]

theorem Memory.read_erase_other (m : List Host.Cell) {p q : Nat} (h : q ≠ p) :
    Memory.read (Memory.erase m p) q = Memory.read m q := by
  induction m with
  | nil => rfl
  | cons c rest ih =>
    simp only [Memory.erase]
    split
    · rw [Memory.read, if_neg (by omega)]
    · simp only [Memory.read, ih]

/-- A byte is at `p` only if the list has a cell with that offset. -/
theorem Memory.read_eq_none (m : List Host.Cell) (p : Nat) (h : ∀ c ∈ m, c.1 ≠ p) : Memory.read m p = none := by
  induction m with
  | nil => rfl
  | cons c rest ih =>
    rw [Memory.read, if_neg (h c (by simp))]
    exact ih fun d hd => h d (by simp [hd])

theorem Memory.read_erase_same (m : List Host.Cell) (p : Nat) (hw : Memory.wf m) :
    Memory.read (Memory.erase m p) p = none := by
  induction m with
  | nil => rfl
  | cons c rest ih =>
    obtain ⟨hp, hb⟩ := hw
    obtain ⟨hc, hr⟩ := List.pairwise_cons.mp hp
    simp only [Memory.erase]
    split
    · exact Memory.read_eq_none rest p fun d hd => by have := hc d hd; omega
    · rename_i hne
      rw [Memory.read, if_neg hne]
      exact ih ⟨hr, fun d hd => hb d (by simp [hd])⟩

theorem Memory.mem_write {m : List Host.Cell} {p : Nat} {b : Byte} {c : Host.Cell} (h : c ∈ Memory.write m p b) :
    c = (p, b) ∨ c ∈ m := by
  induction m with
  | nil => simpa [Memory.write] using h
  | cons d rest ih =>
    simp only [Memory.write] at h
    split at h
    · simpa using h
    · split at h
      · rcases List.mem_cons.mp h with h | h
        · exact .inl h
        · exact .inr (by simp [h])
      · rcases List.mem_cons.mp h with h | h
        · exact .inr (by simp [h])
        · rcases ih h with h | h
          · exact .inl h
          · exact .inr (by simp [h])

theorem Memory.mem_erase {m : List Host.Cell} {p : Nat} {c : Host.Cell} (h : c ∈ Memory.erase m p) : c ∈ m := by
  induction m with
  | nil => simp [Memory.erase] at h
  | cons d rest ih =>
    simp only [Memory.erase] at h
    split at h
    · simp [h]
    · rcases List.mem_cons.mp h with h | h
      · simp [h]
      · simp [ih h]

/-- Writing inside the M-space keeps the canonical form. -/
theorem Memory.write_wf {m : List Host.Cell} {p : Nat} (b : Byte) (hw : Memory.wf m) (hp : p < mspaceSize) :
    Memory.wf (Memory.write m p b) := by
  refine ⟨?_, fun c hc => ?_⟩
  · obtain ⟨hs, -⟩ := hw
    induction m with
    | nil => simp [Memory.write]
    | cons d rest ih =>
      obtain ⟨hd, hr⟩ := List.pairwise_cons.mp hs
      simp only [Memory.write]
      split
      · refine List.pairwise_cons.mpr ⟨fun c hc => ?_, hs⟩
        rcases List.mem_cons.mp hc with rfl | hc
        · assumption
        · have := hd c hc; simp only; omega
      · split
        · rename_i h2
          exact List.pairwise_cons.mpr ⟨fun c hc => by have := hd c hc; simp only; omega, hr⟩
        · refine List.pairwise_cons.mpr ⟨fun c hc => ?_, ih hr⟩
          rcases Memory.mem_write hc with rfl | hc
          · simp only; omega
          · exact hd c hc
  · rcases Memory.mem_write hc with rfl | hc
    · exact hp
    · exact hw.2 c hc

/-- Erasing keeps the canonical form. -/
theorem Memory.erase_wf {m : List Host.Cell} (p : Nat) (hw : Memory.wf m) : Memory.wf (Memory.erase m p) := by
  refine ⟨?_, fun c hc => hw.2 c (Memory.mem_erase hc)⟩
  obtain ⟨hs, -⟩ := hw
  induction m with
  | nil => simp [Memory.erase]
  | cons d rest ih =>
    obtain ⟨hd, hr⟩ := List.pairwise_cons.mp hs
    simp only [Memory.erase]
    split
    · exact hr
    · exact List.pairwise_cons.mpr ⟨fun c hc => hd c (Memory.mem_erase hc), ih hr⟩

theorem Memory.reset_wf : Memory.wf State.reset.mem := by decide

/-- `memRead` answers a byte exactly where the M-space holds one. -/
theorem memRead_ok {m : List Host.Cell} {p : Nat} {b : Byte} :
    memRead m p = .ok b ↔ p < mspaceSize ∧ Memory.read m p = some b := by
  unfold memRead
  split
  · split <;> simp_all
  · simp_all

end Sys2Proof.Machine
end

