-- ==== Sys2Proof/Laws/Ops.lean ====
section
/-! SUPPORT. What each shared operation can do, said once: the provers cite these instead of unfolding the operation. -/

namespace Sys2Proof.Machine

/-! ### Status -/

/-- BUSY in terms of the phase code (R30). -/
theorem State.busy_eq_true {s : State} :
    s.busy = true ↔ s.ph ≠ Phase.idle.code ∧ s.ph ≠ Phase.fin.code ∧ s.ph ≠ Phase.errh.code := by
  simp [State.busy, and_assoc]

theorem State.busy_eq_false {s : State} :
    s.busy = false ↔ s.ph = Phase.idle.code ∨ s.ph = Phase.fin.code ∨ s.ph = Phase.errh.code := by
  simp only [State.busy, Bool.not_eq_false', Bool.or_eq_true, beq_iff_eq, or_assoc]

/-! ### Errors and the command -/

@[simp] theorem State.raise_ecode (s : State) (e : EngineError) : (s.raise e).ecode = e.code := rfl
@[simp] theorem State.raise_ph (s : State) (e : EngineError) : (s.raise e).ph = Phase.errh.code := rfl
@[simp] theorem State.raise_t (s : State) (e : EngineError) : (s.raise e).t = 0#6 := rfl

/-- Error entry changes `ECODE` and `SEQ` and nothing else (R175). -/
theorem State.raise_frame (s : State) (e : EngineError) :
    s.raise e = { s with ecode := e.code, ph := Phase.errh.code, t := 0#6 } := rfl

/-- Acceptance of a command changes `LREG`, `ECODE`, `DG` and `SEQ` and nothing else (R96). -/
theorem State.accept_frame (s : State) :
    s.accept = { s with lreg := s.len, ecode := 0#4, dg := Vector.replicate 32 0#8, ph := Phase.chk.code, t := 0#6 } := rfl

theorem digestCommand_busy {s : State} (h : s.busy = true) : digestCommand s = .next s := by simp [digestCommand, h]
theorem digestCommand_idle {s : State} (h : s.busy = false) : digestCommand s = .next s.accept := by
  simp [digestCommand, h]

/-- The command always has a next state, one of two. -/
theorem digestCommand_next {s t : State} (h : digestCommand s = .next t) :
    (s.busy = true ∧ t = s) ∨ (s.busy = false ∧ t = s.accept) := by
  unfold digestCommand at h
  split at h <;> simp_all

theorem writeLen_busy {v : BitVec 64} {s : State} (h : s.busy = true) : writeLen v s = .next s := by simp [writeLen, h]
theorem writeLen_idle {v : BitVec 64} {s : State} (h : s.busy = false) : writeLen v s = .next (s.setLen v) := by
  simp [writeLen, h]

theorem writeLen_next {v : BitVec 64} {s t : State} (h : writeLen v s = .next t) :
    (s.busy = true ∧ t = s) ∨ (s.busy = false ∧ t = s.setLen v) := by
  unfold writeLen at h
  split at h <;> simp_all

/-! ### Updates followed by a transfer of the sequencer, as one record -/

theorem State.setLb_setSeq (s : State) (v : BitVec 64) (p : Phase) (x : BitVec 6) :
    (s.setLb v).setSeq p x = { s with lb := v, ph := p.code, t := x } := rfl
theorem State.setPb_setSeq (s : State) (v : BitVec 65) (p : Phase) (x : BitVec 6) :
    (s.setPb v).setSeq p x = { s with pb := v, ph := p.code, t := x } := rfl
theorem State.setNb_setSeq (s : State) (v : BitVec 56) (p : Phase) (x : BitVec 6) :
    (s.setNb v).setSeq p x = { s with nb := v, ph := p.code, t := x } := rfl
theorem State.setB_setSeq (s : State) (v : Block) (p : Phase) (x : BitVec 6) :
    (s.setB v).setSeq p x = { s with b := v, ph := p.code, t := x } := rfl
theorem State.setW_setSeq (s : State) (i : BitVec 6) (v : Word) (p : Phase) (x : BitVec 6) :
    (s.setW i v).setSeq p x = { s with w := s.w.set i.toNat v i.isLt, ph := p.code, t := x } := rfl
theorem State.setR_setSeq (s : State) (v : Eight) (p : Phase) (x : BitVec 6) :
    (s.setR v).setSeq p x = { s with r := v, ph := p.code, t := x } := rfl
theorem State.setDg_setSeq (s : State) (v : DigestBytes) (p : Phase) (x : BitVec 6) :
    (s.setDg v).setSeq p x = { s with dg := v, ph := p.code, t := x } := rfl
theorem State.setH_setJ_setSeq (s : State) (v : Eight) (j : BitVec 56) (p : Phase) (x : BitVec 6) :
    ((s.setH v).setJ j).setSeq p x = { s with h := v, j := j, ph := p.code, t := x } := rfl

/-! ### Loading a block -/

/-- `collect` gives a vector exactly when every byte is given, and then it holds them. -/
theorem collect_ok {f : Nat → Except Fault Byte} {n : Nat} {v : Vector Byte n} :
    collect f n = .ok v ↔ ∀ i (h : i < n), f i = .ok v[i] := by
  induction n with
  | zero =>
    refine ⟨fun _ i h => absurd h (by omega), fun _ => ?_⟩
    have hv : v = #v[] := by ext i hi; omega
    simp [collect, hv]
  | succ n ih =>
    simp only [collect]
    constructor
    · intro h i hi
      split at h
      · cases h
      · rename_i u hu
        split at h
        · cases h
        · rename_i b hb
          cases h
          rw [Vector.getElem_push]
          split
          · exact ih.mp hu i _
          · rw [show i = n by omega, hb]
    · intro h
      have hu : collect f n = .ok v.pop := ih.mpr fun i hi => by rw [h i (by omega)]; simp
      rw [hu, h n (by omega)]
      simp only [Except.ok.injEq]
      ext i hi
      rw [Vector.getElem_push]
      split
      · simp
      · simp [show i = n by omega]

/-- A fault of `collect` is the fault of one of the bytes. -/
theorem collect_error {f : Nat → Except Fault Byte} {n : Nat} {e : Fault} (h : collect f n = .error e) :
    ∃ i, i < n ∧ f i = .error e ∧ ∀ k, k < i → ∃ b, f k = .ok b := by
  induction n with
  | zero => cases h
  | succ n ih =>
    simp only [collect] at h
    split at h
    · cases h
      obtain ⟨i, hi, hf, hk⟩ := ih ‹_›
      exact ⟨i, by omega, hf, hk⟩
    · rename_i v hv
      split at h
      · cases h
        exact ⟨n, by omega, ‹_›, fun k hk => ⟨_, collect_ok.mp hv k hk⟩⟩
      · cases h

/-- LDB when every byte of its block is given. -/
theorem execLdb_ok {s : State} {v : Block} (h : collect (blockByte s) 64 = .ok v) :
    execLdb s = .next ((s.setB v).setSeq .ldw 0#6) := by
  unfold execLdb
  rw [h]

/-- LDB when one of them is not. -/
theorem execLdb_error {s : State} {e : Fault} (h : collect (blockByte s) 64 = .error e) : execLdb s = .fault e := by
  unfold execLdb
  rw [h]

/-! ### Turns -/

@[simp] theorem State.consume_holdsMessageByte (s : State) (p : Nat) :
    s.consume.holdsMessageByte p = s.holdsMessageByte p := rfl
@[simp] theorem State.consume_busy (s : State) : s.consume.busy = s.busy := rfl
@[simp] theorem State.answer_busy (s : State) (v : Word) : (s.answer v).busy = s.busy := rfl

theorem State.turn_nil {s : State} (h : s.agenda = []) : s.turn = .sequencer := by simp [State.turn, h]
theorem State.turn_cons {s : State} {x : Turn} {l : List Turn} (h : s.agenda = x :: l) : s.turn = x := by
  simp [State.turn, h]

theorem step_sequencer {s : State} {i : Instr} (h : s.turn = .sequencer) (hi : s.microOp = .ok i) :
    step s = exec i s.consume := by simp [step, h, hi, run]

theorem step_host {s : State} {a : Access} {i : Instr} (h : s.turn = .host a) (hi : decodeHost a = .ok i) :
    step s = exec i s.consume := by simp [step, h, hi, run]

/-- What a step can do, once and for all: perform the decoded operation, or one of the moves that are no instruction. -/
theorem step_cases {s t : State} (h : step s = .next t) :
    (s.turn = .sequencer ∧ ∃ i, s.microOp = .ok i ∧ exec i s.consume = .next t) ∨
    (∃ a, s.turn = .host a ∧ ∃ i, decodeHost a = .ok i ∧ exec i s.consume = .next t) ∨
    (∃ p b, s.turn = .place p b ∧ p < mspaceSize ∧ s.holdsMessageByte p = false ∧
      t = s.consume.setMem (Memory.write s.mem p b)) ∨
    (∃ p, s.turn = .free p ∧ s.holdsMessageByte p = false ∧ t = s.consume.setMem (Memory.erase s.mem p)) ∨
    (s.turn = .reset ∧ t = s.consume.resetEvent) := by
  unfold step at h
  split at h
  · rename_i ht
    refine .inl ⟨ht, ?_⟩
    cases hm : s.microOp with
    | ok i => exact ⟨i, rfl, by simpa [hm, run] using h⟩
    | error e => simp [hm, run] at h
  · rename_i a ht
    refine .inr (.inl ⟨a, ht, ?_⟩)
    cases hm : decodeHost a with
    | ok i => exact ⟨i, rfl, by simpa [hm, run] using h⟩
    | error e => simp [hm, run] at h
  · rename_i p b ht
    refine .inr (.inr (.inl ⟨p, b, ht, ?_⟩))
    unfold hostPlace at h
    split at h
    · cases h
    · split at h
      · cases h
      · rename_i h1 h2
        exact ⟨by omega, by simpa using h2, by simpa using h.symm⟩
  · rename_i p ht
    refine .inr (.inr (.inr (.inl ⟨p, ht, ?_⟩)))
    unfold hostFree at h
    split at h
    · cases h
    · rename_i h2
      exact ⟨by simpa using h2, by simpa using h.symm⟩
  · rename_i ht
    exact .inr (.inr (.inr (.inr ⟨ht, by simpa using h.symm⟩)))

end Sys2Proof.Machine
end

