-- ==== Sys2Proof/Laws/Micro.lean ====
section
/-! SUPPORT. What a step of the sequencer can do, said once, as a relation with one constructor per row of the next-state
table (R78): a step of the sequencer is exactly such a move. Proofs about steps go by cases on it. -/

namespace Sys2Proof.Machine

/-- One move of the sequencer from `s`, the next state written as a record. -/
inductive MicroStep (s : State) : State → Prop
  | idle (ph : s.ph = 0x0#4) (t : s.t = 0#6) : MicroStep s s
  | fin (ph : s.ph = 0xC#4) (t : s.t = 0#6) : MicroStep s s
  | errh (ph : s.ph = 0xD#4) (t : s.t = 0#6) : MicroStep s s
  | chkFail (ph : s.ph = 0x1#4) (t : s.t = 0#6) (big : 2 ^ 61 ≤ s.lreg.toNat) :
      MicroStep s { s with ecode := 1#4, ph := 0xD#4, t := 0#6 }
  | chk (ph : s.ph = 0x1#4) (t : s.t = 0#6) (small : s.lreg.toNat < 2 ^ 61) :
      MicroStep s { s with lb := BitVec.ofNat 64 (s.lreg.toNat * 8), ph := 0x2#4, t := 0#6 }
  | padl (ph : s.ph = 0x2#4) (t : s.t = 0#6) :
      MicroStep s { s with pb := BitVec.ofNat 65 (paddedBits s.lb.toNat), ph := 0x3#4, t := 0#6 }
  | segcFail (ph : s.ph = 0x3#4) (t : s.t = 0#6) (odd : s.pb.toNat % 512 ≠ 0) :
      MicroStep s { s with ecode := 2#4, ph := 0xD#4, t := 0#6 }
  | segc (ph : s.ph = 0x3#4) (t : s.t = 0#6) (whole : s.pb.toNat % 512 = 0) :
      MicroStep s { s with nb := s.pb.extractLsb' 9 56, ph := 0x4#4, t := 0#6 }
  | init (ph : s.ph = 0x4#4) (t : s.t = 0#6) :
      MicroStep s { s with h := initialHash, j := 0#56, ph := 0x5#4, t := 0#6 }
  | ldb (ph : s.ph = 0x5#4) (t : s.t = 0#6) (v : Block) (bytes : ∀ k (hk : k < 64), blockByte s k = .ok v[k]) :
      MicroStep s { s with b := v, ph := 0x6#4, t := 0#6 }
  | ldw (ph : s.ph = 0x6#4) (lt : s.t.toNat < 15) :
      MicroStep s { s with
        w := s.w.set s.t.toNat (blockWord s.b ⟨s.t.toNat, by omega⟩) s.t.isLt, ph := 0x6#4, t := s.t + 1#6 }
  | ldwLast (ph : s.ph = 0x6#4) (eq : s.t = 15#6) :
      MicroStep s { s with w := s.w.set 15 (blockWord s.b 15), ph := 0x7#4, t := 16#6 }
  | exp (ph : s.ph = 0x7#4) (ge : 16 ≤ s.t.toNat) (lt : s.t.toNat < 63) :
      MicroStep s { s with
        w := s.w.set s.t.toNat (recurrence (at64 s.w (s.t - 16#6)) (at64 s.w (s.t - 15#6)) (at64 s.w (s.t - 7#6))
          (at64 s.w (s.t - 2#6))) s.t.isLt, ph := 0x7#4, t := s.t + 1#6 }
  | expLast (ph : s.ph = 0x7#4) (eq : s.t = 63#6) :
      MicroStep s { s with
        w := s.w.set 63 (recurrence (at64 s.w 47#6) (at64 s.w 48#6) (at64 s.w 56#6) (at64 s.w 61#6)),
        ph := 0x8#4, t := 0#6 }
  | ldr (ph : s.ph = 0x8#4) (t : s.t = 0#6) : MicroStep s { s with r := s.h, ph := 0x9#4, t := 0#6 }
  | rnd (ph : s.ph = 0x9#4) (lt : s.t.toNat < 63) :
      MicroStep s { s with r := round s.t s.r (at64 s.w s.t), ph := 0x9#4, t := s.t + 1#6 }
  | rndLast (ph : s.ph = 0x9#4) (eq : s.t = 63#6) :
      MicroStep s { s with r := round 63#6 s.r (at64 s.w 63#6), ph := 0xA#4, t := 0#6 }
  | fold (ph : s.ph = 0xA#4) (t : s.t = 0#6) (more : s.j.toNat + 1 ≠ s.nb.toNat) :
      MicroStep s { s with h := foldInto s.h s.r, j := nextBlockIndex s.j, ph := 0x5#4, t := 0#6 }
  | foldLast (ph : s.ph = 0xA#4) (t : s.t = 0#6) (last : s.j.toNat + 1 = s.nb.toNat) :
      MicroStep s { s with h := foldInto s.h s.r, j := nextBlockIndex s.j, ph := 0xB#4, t := 0#6 }
  | asm (ph : s.ph = 0xB#4) (t : s.t = 0#6) : MicroStep s { s with dg := assemble s.h, ph := 0xC#4, t := 0#6 }

/-- `SEQ` is decoded field by field. -/
theorem State.microOp_eq (s : State) : s.microOp = decodeSeq s.ph s.t := by
  have split : ∀ (a : BitVec 4) (b : BitVec 6), (a ++ b).extractLsb' 6 4 = a ∧ (a ++ b).extractLsb' 0 6 = b := by decide
  obtain ⟨h1, h2⟩ := split s.ph s.t
  show decodeSeq ((s.ph ++ s.t).extractLsb' 6 4) ((s.ph ++ s.t).extractLsb' 0 6) = _
  rw [h1, h2]

/-- Which `SEQ` values decode to which micro-operation (R73). -/
def seqOf (i : Instr) (ph : BitVec 4) (t : BitVec 6) : Bool :=
  match i with
  | .idle => ph = 0x0#4 ∧ t = 0#6
  | .chk => ph = 0x1#4 ∧ t = 0#6
  | .padl => ph = 0x2#4 ∧ t = 0#6
  | .segc => ph = 0x3#4 ∧ t = 0#6
  | .init => ph = 0x4#4 ∧ t = 0#6
  | .ldb => ph = 0x5#4 ∧ t = 0#6
  | .ldwT x => ph = 0x6#4 ∧ x = t ∧ t.toNat < 16
  | .expT x => ph = 0x7#4 ∧ x = t ∧ 16 ≤ t.toNat
  | .ldr => ph = 0x8#4 ∧ t = 0#6
  | .rndT x => ph = 0x9#4 ∧ x = t
  | .fold => ph = 0xA#4 ∧ t = 0#6
  | .asm => ph = 0xB#4 ∧ t = 0#6
  | .fin => ph = 0xC#4 ∧ t = 0#6
  | .errh => ph = 0xD#4 ∧ t = 0#6
  | _ => false

theorem seqOf_decodeSeq {ph : BitVec 4} {t : BitVec 6} {i : Instr} (h : decodeSeq ph t = .ok i) : seqOf i ph t = true := by
  have all : ∀ (ph : BitVec 4) (t : BitVec 6),
      (match decodeSeq ph t with
        | .ok i => seqOf i ph t
        | .error _ => true) = true := by decide
  simpa [h] using all ph t

theorem execChk_cases (s : State) :
    (2 ^ 61 ≤ s.lreg.toNat ∧ execChk s = .next (s.raise .messageTooLarge)) ∨
    (s.lreg.toNat < 2 ^ 61 ∧
      execChk s = .next { s with lb := BitVec.ofNat 64 (s.lreg.toNat * 8), ph := 0x2#4, t := 0#6 }) := by
  unfold execChk
  rcases Nat.lt_or_ge s.lreg.toNat (2 ^ 61) with h | h
  · exact .inr ⟨h, by rw [if_neg (by omega)]; rfl⟩
  · exact .inl ⟨h, by rw [if_pos h]⟩

theorem execSegc_cases (s : State) :
    (s.pb.toNat % 512 ≠ 0 ∧ execSegc s = .next (s.raise .invalidPaddingLength)) ∨
    (s.pb.toNat % 512 = 0 ∧ execSegc s = .next { s with nb := s.pb.extractLsb' 9 56, ph := 0x4#4, t := 0#6 }) := by
  unfold execSegc
  by_cases h : s.pb.toNat % 512 = 0
  · exact .inr ⟨h, by rw [if_neg (by simp [h])]; rfl⟩
  · exact .inl ⟨h, by rw [if_pos h]⟩

theorem execLdb_next {s t : State} (h : execLdb s = .next t) :
    ∃ v : Block, (∀ k (hk : k < 64), blockByte s k = .ok v[k]) ∧ t = { s with b := v, ph := 0x6#4, t := 0#6 } := by
  cases hc : collect (blockByte s) 64 with
  | error e => rw [execLdb_error hc] at h; cases h
  | ok v =>
    rw [execLdb_ok hc, State.setB_setSeq] at h
    exact ⟨v, collect_ok.mp hc, (Host.Outcome.next.inj h).symm⟩

theorem execAsm_eq (s : State) : exec .asm s = .next { s with dg := assemble s.h, ph := 0xC#4, t := 0#6 } := by
  show Host.Outcome.next ((s.setDg (assemble s.h)).setSeq .fin 0#6) = _
  rw [State.setDg_setSeq]
  rfl

/-- What the decoded micro-operation does is a move of the relation. -/
theorem microStep_of_exec {s t : State} {i : Instr} (hi : seqOf i s.ph s.t = true) (h : exec i s = .next t) :
    MicroStep s t := by
  cases i <;> simp [seqOf] at hi
  case idle => cases h; exact .idle hi.1 hi.2
  case fin => cases h; exact .fin hi.1 hi.2
  case errh => cases h; exact .errh hi.1 hi.2
  case chk =>
    rcases execChk_cases s with ⟨hb, he⟩ | ⟨hb, he⟩ <;> obtain rfl := Host.Outcome.next.inj (he.symm.trans h)
    · exact .chkFail hi.1 hi.2 hb
    · exact .chk hi.1 hi.2 hb
  case padl => cases h; exact .padl hi.1 hi.2
  case segc =>
    rcases execSegc_cases s with ⟨hb, he⟩ | ⟨hb, he⟩ <;> obtain rfl := Host.Outcome.next.inj (he.symm.trans h)
    · exact .segcFail hi.1 hi.2 hb
    · exact .segc hi.1 hi.2 hb
  case init => cases h; exact .init hi.1 hi.2
  case ldb =>
    obtain ⟨v, hv, rfl⟩ := execLdb_next h
    exact .ldb hi.1 hi.2 v hv
  case ldwT x =>
    obtain ⟨hp, rfl, hx⟩ := hi
    simp only [exec, execLdw, hx, dite_true] at h
    split at h <;> cases h
    · exact .ldw hp ‹_›
    · have ht : s.t = 15#6 := BitVec.eq_of_toNat_eq (by simp; omega)
      simp only [ht]
      exact .ldwLast hp ht
  case expT x =>
    obtain ⟨hp, rfl, hx⟩ := hi
    simp only [exec, execExp, hx, if_true] at h
    split at h <;> cases h
    · exact .exp hp hx ‹_›
    · have ht : s.t = 63#6 := BitVec.eq_of_toNat_eq (by have := s.t.isLt; simp; omega)
      simp only [ht]
      exact .expLast hp ht
  case ldr => cases h; exact .ldr hi.1 hi.2
  case rndT x =>
    obtain ⟨hp, rfl⟩ := hi
    simp only [exec, execRnd] at h
    split at h <;> cases h
    · exact .rnd hp ‹_›
    · have ht : s.t = 63#6 := BitVec.eq_of_toNat_eq (by have := s.t.isLt; simp; omega)
      simp only [ht]
      exact .rndLast hp ht
  case fold =>
    simp only [exec, execFold] at h
    split at h <;> cases h
    · exact .foldLast hi.1 hi.2 ‹_›
    · exact .fold hi.1 hi.2 ‹_›
  case asm =>
    rw [execAsm_eq] at h
    obtain rfl := Host.Outcome.next.inj h
    exact .asm hi.1 hi.2

/-- A step of the sequencer is a move of the relation. -/
theorem microStep_of_step {s t : State} (ht : s.turn = .sequencer) (h : step s = .next t) :
    MicroStep s.consume t := by
  rcases step_cases h with ⟨-, i, hi, he⟩ | ⟨a, ha, -⟩ | ⟨p, b, ha, -⟩ | ⟨p, ha, -⟩ | ⟨ha, -⟩
  · exact microStep_of_exec (seqOf_decodeSeq (s.microOp_eq ▸ hi)) he
  all_goals rw [ht] at ha; cases ha

end Sys2Proof.Machine
end

