-- ==== Sys2Proof/Laws/PerInstr.lean ====
section
/-! SUPPORT. For every constructor of `Instr`: its encoding lies in its row of spec/opcode_table.json (mask and match). -/

namespace Sys2Proof.Laws.TableRow

/-- The bits of an encoding as the opcode table numbers them: the selector, the command word, or `SEQ`. -/
def bitsOf : Encoded → Nat
  | .access sel _ => sel.toNat
  | .command w => w.toNat
  | .seq q => q.toNat

/-- Width, mask and match of each row of spec/opcode_table.json. -/
def row : Instr → Nat × Nat × Nat
  | .wrCmd _ => (7, 0x7F, 0x40)
  | .wrStatus _ => (7, 0x7F, 0x44)
  | .wrLenLo _ => (7, 0x7F, 0x48)
  | .wrLenHi _ => (7, 0x7F, 0x4C)
  | .wrDigest0 _ => (7, 0x7F, 0x50)
  | .wrDigest1 _ => (7, 0x7F, 0x54)
  | .wrDigest2 _ => (7, 0x7F, 0x58)
  | .wrDigest3 _ => (7, 0x7F, 0x5C)
  | .wrDigest4 _ => (7, 0x7F, 0x60)
  | .wrDigest5 _ => (7, 0x7F, 0x64)
  | .wrDigest6 _ => (7, 0x7F, 0x68)
  | .wrDigest7 _ => (7, 0x7F, 0x6C)
  | .rdCmd => (7, 0x7F, 0x00)
  | .rdStatus => (7, 0x7F, 0x04)
  | .rdLenLo => (7, 0x7F, 0x08)
  | .rdLenHi => (7, 0x7F, 0x0C)
  | .rdDigest0 => (7, 0x7F, 0x10)
  | .rdDigest1 => (7, 0x7F, 0x14)
  | .rdDigest2 => (7, 0x7F, 0x18)
  | .rdDigest3 => (7, 0x7F, 0x1C)
  | .rdDigest4 => (7, 0x7F, 0x20)
  | .rdDigest5 => (7, 0x7F, 0x24)
  | .rdDigest6 => (7, 0x7F, 0x28)
  | .rdDigest7 => (7, 0x7F, 0x2C)
  | .digest => (32, 0xFFFFFFFF, 0x00000001)
  | .idle => (10, 0x3FF, 0x000)
  | .chk => (10, 0x3FF, 0x040)
  | .padl => (10, 0x3FF, 0x080)
  | .segc => (10, 0x3FF, 0x0C0)
  | .init => (10, 0x3FF, 0x100)
  | .ldb => (10, 0x3FF, 0x140)
  | .ldwT _ => (10, 0x3F0, 0x180)
  | .expT _ => (10, 0x3C0, 0x1C0)
  | .ldr => (10, 0x3FF, 0x200)
  | .rndT _ => (10, 0x3C0, 0x240)
  | .fold => (10, 0x3FF, 0x280)
  | .asm => (10, 0x3FF, 0x2C0)
  | .fin => (10, 0x3FF, 0x300)
  | .errh => (10, 0x3FF, 0x340)

/-- The number of bits the encoding's format has (R70). -/
def widthOf : Encoded → Nat
  | .access _ _ => 7
  | .command _ => 32
  | .seq _ => 10

/-- A well-formed instruction's encoding has its row's width and, under the row's mask, the row's bits. -/
def Statement (i : Instr) : Prop :=
  i.wellFormed = true → widthOf (encode i) = (row i).1 ∧ bitsOf (encode i) &&& (row i).2.1 = (row i).2.2

theorem wrCmd (v : Word) : Statement (.wrCmd v) := fun _ => by simp only [encode, bitsOf, row, widthOf]; decide
theorem wrStatus (v : Word) : Statement (.wrStatus v) := fun _ => by simp only [encode, bitsOf, row, widthOf]; decide
theorem wrLenLo (v : Word) : Statement (.wrLenLo v) := fun _ => by simp only [encode, bitsOf, row, widthOf]; decide
theorem wrLenHi (v : Word) : Statement (.wrLenHi v) := fun _ => by simp only [encode, bitsOf, row, widthOf]; decide
theorem wrDigest0 (v : Word) : Statement (.wrDigest0 v) := fun _ => by simp only [encode, bitsOf, row, widthOf]; decide
theorem wrDigest1 (v : Word) : Statement (.wrDigest1 v) := fun _ => by simp only [encode, bitsOf, row, widthOf]; decide
theorem wrDigest2 (v : Word) : Statement (.wrDigest2 v) := fun _ => by simp only [encode, bitsOf, row, widthOf]; decide
theorem wrDigest3 (v : Word) : Statement (.wrDigest3 v) := fun _ => by simp only [encode, bitsOf, row, widthOf]; decide
theorem wrDigest4 (v : Word) : Statement (.wrDigest4 v) := fun _ => by simp only [encode, bitsOf, row, widthOf]; decide
theorem wrDigest5 (v : Word) : Statement (.wrDigest5 v) := fun _ => by simp only [encode, bitsOf, row, widthOf]; decide
theorem wrDigest6 (v : Word) : Statement (.wrDigest6 v) := fun _ => by simp only [encode, bitsOf, row, widthOf]; decide
theorem wrDigest7 (v : Word) : Statement (.wrDigest7 v) := fun _ => by simp only [encode, bitsOf, row, widthOf]; decide
theorem rdCmd : Statement .rdCmd := fun _ => by simp only [encode, bitsOf, row, widthOf]; decide
theorem rdStatus : Statement .rdStatus := fun _ => by simp only [encode, bitsOf, row, widthOf]; decide
theorem rdLenLo : Statement .rdLenLo := fun _ => by simp only [encode, bitsOf, row, widthOf]; decide
theorem rdLenHi : Statement .rdLenHi := fun _ => by simp only [encode, bitsOf, row, widthOf]; decide
theorem rdDigest0 : Statement .rdDigest0 := fun _ => by simp only [encode, bitsOf, row, widthOf]; decide
theorem rdDigest1 : Statement .rdDigest1 := fun _ => by simp only [encode, bitsOf, row, widthOf]; decide
theorem rdDigest2 : Statement .rdDigest2 := fun _ => by simp only [encode, bitsOf, row, widthOf]; decide
theorem rdDigest3 : Statement .rdDigest3 := fun _ => by simp only [encode, bitsOf, row, widthOf]; decide
theorem rdDigest4 : Statement .rdDigest4 := fun _ => by simp only [encode, bitsOf, row, widthOf]; decide
theorem rdDigest5 : Statement .rdDigest5 := fun _ => by simp only [encode, bitsOf, row, widthOf]; decide
theorem rdDigest6 : Statement .rdDigest6 := fun _ => by simp only [encode, bitsOf, row, widthOf]; decide
theorem rdDigest7 : Statement .rdDigest7 := fun _ => by simp only [encode, bitsOf, row, widthOf]; decide
theorem digest : Statement .digest := fun _ => by simp only [encode, bitsOf, row, widthOf]; decide
theorem idle : Statement .idle := fun _ => by simp only [encode, bitsOf, row, widthOf]; decide
theorem chk : Statement .chk := fun _ => by simp only [encode, bitsOf, row, widthOf]; decide
theorem padl : Statement .padl := fun _ => by simp only [encode, bitsOf, row, widthOf]; decide
theorem segc : Statement .segc := fun _ => by simp only [encode, bitsOf, row, widthOf]; decide
theorem init : Statement .init := fun _ => by simp only [encode, bitsOf, row, widthOf]; decide
theorem ldb : Statement .ldb := fun _ => by simp only [encode, bitsOf, row, widthOf]; decide
theorem ldwT (t : BitVec 6) : Statement (.ldwT t) := by
  revert t; unfold Statement; decide
theorem expT (t : BitVec 6) : Statement (.expT t) := by
  revert t; unfold Statement; decide
theorem ldr : Statement .ldr := fun _ => by simp only [encode, bitsOf, row, widthOf]; decide
theorem rndT (t : BitVec 6) : Statement (.rndT t) := by
  revert t; unfold Statement; decide
theorem fold : Statement .fold := fun _ => by simp only [encode, bitsOf, row, widthOf]; decide
theorem asm : Statement .asm := fun _ => by simp only [encode, bitsOf, row, widthOf]; decide
theorem fin : Statement .fin := fun _ => by simp only [encode, bitsOf, row, widthOf]; decide
theorem errh : Statement .errh := fun _ => by simp only [encode, bitsOf, row, widthOf]; decide

end Sys2Proof.Laws.TableRow
end

