-- ==== Sys2Proof/Laws/Run.lean ====
section
/-! SUPPORT. Runs of several steps, a step at a time. -/

namespace Sys2Proof.Machine

theorem State.consume_eq {s : State} (h : s.agenda = []) : s.consume = s := by
  cases s
  simp only at h
  simp [State.consume, h]

/-- A run whose first step is known. -/
theorem run_succ {n : Nat} {s t : State} (h : step s = .next t) :
    Host.Core.run core (n + 1) s = Host.Core.run core n t := by
  have h' : core.step s = .next t := h
  simp only [Host.Core.run, h']

/-- A run made longer by one step at its end. -/
theorem run_snoc {n : Nat} {s t u : State} (h : Host.Core.run core n s = .next t) (hu : step t = .next u) :
    Host.Core.run core (n + 1) s = .next u := by
  induction n generalizing s with
  | zero =>
    cases h
    rw [run_succ hu]
    rfl
  | succ n ih =>
    cases hs : step s with
    | next v =>
      rw [run_succ hs] at h ⊢
      exact ih h
    | fault e =>
      simp only [Host.Core.run, show core.step s = _ from hs] at h
      cases h
    | refused e =>
      simp only [Host.Core.run, show core.step s = _ from hs] at h
      cases h

/-- With nothing on the agenda, a step is the operation `SEQ` decodes to. -/
theorem step_idle_agenda {s : State} {i : Instr} (ha : s.agenda = []) (hi : decodeSeq s.ph s.t = .ok i) :
    step s = exec i s := by
  rw [step_sequencer (State.turn_nil ha) (by rw [State.microOp_eq, hi]), State.consume_eq ha]

end Sys2Proof.Machine
end

