-- ==== Sys2Proof/Tests/Slice0.lean ====
section
/-! SUPPORT. Tests: ill-formed terms refused; a word of every row of the encoding tables; a witness for the hypotheses of
every statement; single steps against the examples of the rules and the vectors of `95_test_vectors.md`. -/

namespace Sys2Proof.Tests

open Sys2Proof.Machine

/-! ### Helpers -/

/-- The outcome is a next state with property `p`. -/
def ran (o : Host.Outcome State Fault Refusal) (p : State → Bool) : Bool :=
  match o with
  | .next s => p s
  | _ => false

/-- The outcome is the refusal `r`. -/
def refuses (o : Host.Outcome State Fault Refusal) (r : Refusal) : Bool :=
  match o with
  | .refused q => q == r
  | _ => false

/-- The outcome is the fault `f`. -/
def faults (o : Host.Outcome State Fault Refusal) (f : Fault) : Bool :=
  match o with
  | .fault g => g == f
  | _ => false

/-- The state after reset but for `SEQ`. -/
def at' (ph : BitVec 4) (t : BitVec 6) : State := { State.reset with ph := ph, t := t }

/-- The message `abc` in the M-space and its length in `LEN`. -/
def abcPlaced : State := { State.reset with mem := [(0, 0x61#8), (1, 0x62#8), (2, 0x63#8)], len := 3#64 }

/-- `abc` latched, the length registers as CHK, PADL and SEGC leave them (Part 3.1), the engine in phase `ph`. -/
def abcAt (ph : BitVec 4) : State :=
  { abcPlaced with lreg := 3#64, lb := 0x18#64, pb := 0x200#65, nb := 1#56, h := initialHash, ph := ph }

/-- The bytes of `abc`. -/
def abc : List Byte := [0x61#8, 0x62#8, 0x63#8]

/-- The one block of the empty message (Part 3.2). -/
def emptyBlock : Block := Vector.ofFn fun k => if k.val = 0 then 0x80#8 else 0x00#8

/-! ### Ill-formed terms are refused -/

theorem test_ldw_16_ill_formed : Instr.wellFormed (.ldwT 16#6) = false ∧ Instr.wellFormed (.ldwT 15#6) = true := by decide
theorem test_ldw_16_refused : decode (.seq 0b0110010000#10) = .error .reservedSeq := by rfl
theorem test_exp_15_ill_formed : Instr.wellFormed (.expT 15#6) = false ∧ Instr.wellFormed (.expT 16#6) = true := by decide
theorem test_exp_15_refused : decode (.seq 0b0111001111#10) = .error .reservedSeq := by rfl
theorem test_exec_refuses_ill_formed :
    refuses (exec (.ldwT 16#6) State.reset) (.reserved .reservedSeq) = true ∧
    refuses (exec (.expT 15#6) State.reset) (.reserved .reservedSeq) = true := by decide
theorem test_index_in_unindexed_phase_refused : decode (.seq 0b0001000001#10) = .error .reservedSeq := by rfl
theorem test_phase_e_refused : decode (.seq 0b1110000000#10) = .error .reservedSeq := by rfl
theorem test_reserved_slot_refused : decode (.access 0b0110000#7 0#32) = .error .reservedSlot := by rfl
theorem test_misaligned_refused : decode (.access 0b1000001#7 1#32) = .error .misaligned := by rfl
theorem test_command_0_refused : decode (.command 0#32) = .error .reservedCommand := by rfl
theorem test_narrow_access_refused : decodeHost ⟨false, 8, 0x04, 0#32⟩ = .error .accessWidth := by rfl
theorem test_outside_window_refused : decodeHost ⟨false, 32, 0x40, 0#32⟩ = .error .outsideWindow := by rfl

/-! ### A word of every row, written out from R75, R76 and R73 -/

theorem test_decode_host_writes (v : Word) :
    decode (.access 0b1000000#7 v) = .ok (.wrCmd v) ∧ decode (.access 0b1000100#7 v) = .ok (.wrStatus v) ∧
    decode (.access 0b1001000#7 v) = .ok (.wrLenLo v) ∧ decode (.access 0b1001100#7 v) = .ok (.wrLenHi v) ∧
    decode (.access 0b1010000#7 v) = .ok (.wrDigest0 v) ∧ decode (.access 0b1010100#7 v) = .ok (.wrDigest1 v) ∧
    decode (.access 0b1011000#7 v) = .ok (.wrDigest2 v) ∧ decode (.access 0b1011100#7 v) = .ok (.wrDigest3 v) ∧
    decode (.access 0b1100000#7 v) = .ok (.wrDigest4 v) ∧ decode (.access 0b1100100#7 v) = .ok (.wrDigest5 v) ∧
    decode (.access 0b1101000#7 v) = .ok (.wrDigest6 v) ∧ decode (.access 0b1101100#7 v) = .ok (.wrDigest7 v) :=
  ⟨rfl, rfl, rfl, rfl, rfl, rfl, rfl, rfl, rfl, rfl, rfl, rfl⟩

theorem test_decode_host_reads (v : Word) :
    decode (.access 0b0000000#7 v) = .ok .rdCmd ∧ decode (.access 0b0000100#7 v) = .ok .rdStatus ∧
    decode (.access 0b0001000#7 v) = .ok .rdLenLo ∧ decode (.access 0b0001100#7 v) = .ok .rdLenHi ∧
    decode (.access 0b0010000#7 v) = .ok .rdDigest0 ∧ decode (.access 0b0010100#7 v) = .ok .rdDigest1 ∧
    decode (.access 0b0011000#7 v) = .ok .rdDigest2 ∧ decode (.access 0b0011100#7 v) = .ok .rdDigest3 ∧
    decode (.access 0b0100000#7 v) = .ok .rdDigest4 ∧ decode (.access 0b0100100#7 v) = .ok .rdDigest5 ∧
    decode (.access 0b0101000#7 v) = .ok .rdDigest6 ∧ decode (.access 0b0101100#7 v) = .ok .rdDigest7 :=
  ⟨rfl, rfl, rfl, rfl, rfl, rfl, rfl, rfl, rfl, rfl, rfl, rfl⟩

theorem test_decode_command : decode (.command 0x00000001#32) = .ok .digest := by rfl

theorem test_decode_plain_phases :
    decode (.seq 0b0000000000#10) = .ok .idle ∧ decode (.seq 0b0001000000#10) = .ok .chk ∧
    decode (.seq 0b0010000000#10) = .ok .padl ∧ decode (.seq 0b0011000000#10) = .ok .segc ∧
    decode (.seq 0b0100000000#10) = .ok .init ∧ decode (.seq 0b0101000000#10) = .ok .ldb ∧
    decode (.seq 0b1000000000#10) = .ok .ldr ∧ decode (.seq 0b1010000000#10) = .ok .fold ∧
    decode (.seq 0b1011000000#10) = .ok .asm ∧ decode (.seq 0b1100000000#10) = .ok .fin ∧
    decode (.seq 0b1101000000#10) = .ok .errh :=
  ⟨rfl, rfl, rfl, rfl, rfl, rfl, rfl, rfl, rfl, rfl, rfl⟩

/-- The indexed phases at the ends of their ranges; values of Part 7.2. -/
theorem test_decode_indexed_phases :
    decode (.seq 0x180#10) = .ok (.ldwT 0#6) ∧ decode (.seq 0x18f#10) = .ok (.ldwT 15#6) ∧
    decode (.seq 0x1d0#10) = .ok (.expT 16#6) ∧ decode (.seq 0x1ff#10) = .ok (.expT 63#6) ∧
    decode (.seq 0x240#10) = .ok (.rndT 0#6) ∧ decode (.seq 0x25e#10) = .ok (.rndT 30#6) ∧
    decode (.seq 0x27f#10) = .ok (.rndT 63#6) :=
  ⟨rfl, rfl, rfl, rfl, rfl, rfl, rfl⟩

theorem test_table_words :
    decodeTableWord 7 0x48 = some (.wrLenLo 0#32) ∧ decodeTableWord 8 0x10 = some .rdDigest0 ∧
    decodeTableWord 32 1 = some .digest ∧ decodeTableWord 10 0x2c0 = some .asm ∧
    decodeTableWord 16 0x18f = some (.ldwT 15#6) ∧ decodeTableWord 10 0x1c0 = none ∧ decodeTableWord 8 0xC8 = none := by
  decide

/-- A table word put where the first step after reset takes its operation from is what that step performs. -/
theorem test_fetch_word :
    ran (step (State.reset.withFetchWord 10 0x040)) (fun s => s.ph == 0x2#4) = true ∧
    ran (step (State.reset.withFetchWord 32 1)) (fun s => s.ph == 0x1#4) = true ∧
    ran (step (State.reset.withFetchWord 8 0x04)) (fun s => s.answers == [0#32]) = true := by decide

/-! ### Primitives (Part 4) -/

theorem test_add32 : add32 0xffffffff#32 1#32 = 0#32 ∧ add32 0x80000000#32 0x80000000#32 = 0#32 ∧
    add32 0x6a09e667#32 0x506e3058#32 = 0xba7816bf#32 := by decide
theorem test_rotr : rotr 1#32 ⟨1, by decide⟩ = 0x80000000#32 ∧ rotr 0x80000001#32 ⟨31, by decide⟩ = 3#32 ∧
    rotr 0x12345678#32 ⟨7, by decide⟩ = 0xf02468ac#32 ∧ rotr 0x12345678#32 ⟨18, by decide⟩ = 0x159e048d#32 := by decide
theorem test_shr : shr 0x12345678#32 ⟨3, by decide⟩ = 0x02468acf#32 ∧ shr 0x80000000#32 ⟨10, by decide⟩ = 0x00200000#32 ∧
    shr 0xffffffff#32 ⟨3, by decide⟩ = 0x1fffffff#32 := by decide
theorem test_be32 : be32 0x61#8 0x62#8 0x63#8 0x80#8 = 0x61626380#32 := by decide
theorem test_byte_be32 : byteBe32 0xba7816bf#32 0 = 0xba#8 ∧ byteBe32 0xba7816bf#32 1 = 0x78#8 ∧
    byteBe32 0xba7816bf#32 2 = 0x16#8 ∧ byteBe32 0xba7816bf#32 3 = 0xbf#8 := by decide
theorem test_byte_be64 : byteBe64 0x18#64 0 = 0#8 ∧ byteBe64 0x18#64 7 = 0x18#8 ∧
    byteBe64 0x0123456789abcdef#64 0 = 0x01#8 := by decide

/-- Entries of the tables of R34 and R35, some in each column; every entry is the subject of a statement. -/
theorem test_constants : roundConstant 1#6 = 0x71374491#32 ∧ roundConstant 16#6 = 0xe49b69c1#32 ∧
    roundConstant 31#6 = 0x14292967#32 ∧ roundConstant 47#6 = 0x106aa070#32 ∧ roundConstant 62#6 = 0xbef9a3f7#32 ∧
    initialHash[1] = 0xbb67ae85#32 ∧ initialHash[6] = 0x1f83d9ab#32 := by decide

/-! ### Mixing functions (Parts 5.1 and 6.1) -/

theorem test_ssig0 : ssig0 1#32 = 0x02004000#32 ∧ ssig0 0x80000000#32 = 0x11002000#32 ∧
    ssig0 0xffffffff#32 = 0x1fffffff#32 ∧ ssig0 0x12345678#32 = 0xe7fce6ee#32 := by decide
theorem test_ssig1 : ssig1 1#32 = 0x0000a000#32 ∧ ssig1 0x80000000#32 = 0x00205000#32 ∧
    ssig1 0xffffffff#32 = 0x003fffff#32 ∧ ssig1 0x12345678#32 = 0xa1f78649#32 := by decide
theorem test_bsig0 : bsig0 1#32 = 0x40080400#32 ∧ bsig0 0x12345678#32 = 0x66146474#32 ∧
    bsig0 0x6a09e667#32 = 0xce20b47e#32 := by decide
theorem test_bsig1 : bsig1 1#32 = 0x04200080#32 ∧ bsig1 0x12345678#32 = 0x3561abda#32 ∧
    bsig1 0x510e527f#32 = 0x3587272b#32 := by decide
theorem test_ch : ch 0xffffffff#32 0x12345678#32 0x9abcdef0#32 = 0x12345678#32 ∧
    ch 0#32 0x12345678#32 0x9abcdef0#32 = 0x9abcdef0#32 ∧
    ch 0x510e527f#32 0x9b05688c#32 0x1f83d9ab#32 = 0x1f85c98c#32 := by decide
theorem test_maj : maj 0xffffffff#32 0x12345678#32 0x9abcdef0#32 = 0x9abcdef8#32 ∧
    maj 0#32 0x12345678#32 0x9abcdef0#32 = 0x12345670#32 ∧
    maj 0x6a09e667#32 0xbb67ae85#32 0x3c6ef372#32 = 0x3a6fe667#32 := by decide

/-! ### Host accesses (examples of R91 to R100) -/

theorem test_wr_len_lo : ran (exec (.wrLenLo 3#32) State.reset) (fun s => s.len == 3#64) = true := by decide
theorem test_wr_len_lo_busy : ran (exec (.wrLenLo 7#32) (abcAt 0x9#4)) (fun s => s.len == 3#64) = true := by decide
theorem test_wr_len_hi :
    ran (exec (.wrLenHi 0x20000000#32) State.reset) (fun s => s.len == 0x2000000000000000#64) = true := by decide
theorem test_wr_len_hi_keeps_low :
    ran (exec (.wrLenHi 1#32) abcPlaced) (fun s => s.len == 0x0000000100000003#64) = true := by decide
theorem test_rd_len_lo : ran (exec .rdLenLo abcPlaced) (fun s => s.answers == [3#32]) = true := by decide
theorem test_rd_len_hi : ran (exec .rdLenHi abcPlaced) (fun s => s.answers == [0#32]) = true := by decide
theorem test_rd_cmd : ran (exec .rdCmd abcPlaced) (fun s => s.answers == [0#32]) = true := by decide
theorem test_rd_status_error :
    ran (exec .rdStatus { at' 0xD#4 0#6 with ecode := 1#4 }) (fun s => s.answers == [0x14#32]) = true := by decide
theorem test_rd_status_done_and_busy : ran (exec .rdStatus (at' 0xC#4 0#6)) (fun s => s.answers == [2#32]) = true ∧
    ran (exec .rdStatus (at' 0xB#4 0#6)) (fun s => s.answers == [1#32]) = true := by decide
/-- The digest register of `abc` (V2) as far as `DIGEST0` and `DIGEST7` show it. -/
def abcDigest : DigestBytes := Vector.ofFn fun k =>
  match k.val with
  | 0 => 0xba#8
  | 1 => 0x78#8
  | 2 => 0x16#8
  | 3 => 0xbf#8
  | 28 => 0xf2#8
  | 31 => 0xad#8
  | 29 => 0x00#8
  | 30 => 0x15#8
  | _ => 0x00#8
theorem test_rd_digest0 :
    ran (exec .rdDigest0 { at' 0xC#4 0#6 with dg := abcDigest }) (fun s => s.answers == [0xba7816bf#32]) = true := by decide
theorem test_rd_digest7 :
    ran (exec .rdDigest7 { at' 0xC#4 0#6 with dg := abcDigest }) (fun s => s.answers == [0xf20015ad#32]) = true := by decide
theorem test_wr_digest0 :
    ran (exec (.wrDigest0 0xffffffff#32) { at' 0xC#4 0#6 with dg := abcDigest }) (fun s => s.dg == abcDigest) = true := by
  decide
/-- R96's example. -/
theorem test_wr_cmd_accepted :
    ran (exec (.wrCmd 1#32) abcPlaced) (fun s => s.lreg == 3#64 && s.ph == 0x1#4 && s.status == 1#32) = true := by decide
theorem test_digest_clears_the_old_digest :
    ran (exec .digest { at' 0xC#4 0#6 with dg := abcDigest }) (fun s => s.dg == Vector.replicate 32 0#8) = true := by decide
/-- R97's example. -/
theorem test_wr_cmd_ignored_while_busy :
    ran (exec (.wrCmd 1#32) { abcAt 0x9#4 with t := 17#6 }) (fun s => s == { abcAt 0x9#4 with t := 17#6 }) = true := by decide
theorem test_digest_leaves_error :
    ran (exec .digest { at' 0xD#4 0#6 with ecode := 1#4 }) (fun s => s.ecode == 0#4 && s.status == 1#32) = true := by decide
theorem test_wr_cmd_reserved : refuses (exec (.wrCmd 2#32) abcPlaced) (.reserved .reservedCommand) = true := by decide
theorem test_halts_keep_the_state :
    ran (exec .idle State.reset) (fun s => s == State.reset) = true ∧
    ran (exec .fin (at' 0xC#4 0#6)) (fun s => s == at' 0xC#4 0#6) = true ∧
    ran (exec .errh (at' 0xD#4 0#6)) (fun s => s == at' 0xD#4 0#6) = true := by decide

/-! ### Padder and segmenter (Parts 3.1 and 3.2) -/

theorem test_chk : ran (exec .chk { at' 0x1#4 0#6 with lreg := 0x1fffffffffffffff#64 })
    (fun s => s.lb == 0xfffffffffffffff8#64 && s.ph == 0x2#4) = true := by decide
theorem test_chk_too_large : ran (exec .chk { at' 0x1#4 0#6 with lreg := 0x2000000000000000#64, lb := 5#64 })
    (fun s => s.lb == 5#64 && s.ph == 0xD#4 && s.ecode == 1#4 && s.status == 0x14#32) = true := by decide
theorem test_padl : ran (exec .padl { at' 0x2#4 0#6 with lb := 0xfffffffffffffff8#64 })
    (fun s => s.pb == 0x10000000000000200#65 && s.ph == 0x3#4) = true := by decide
theorem test_padl_edge : ran (exec .padl { at' 0x2#4 0#6 with lb := 440#64 }) (fun s => s.pb == 512#65) = true ∧
    ran (exec .padl { at' 0x2#4 0#6 with lb := 448#64 }) (fun s => s.pb == 1024#65) = true := by decide
theorem test_segc : ran (exec .segc { at' 0x3#4 0#6 with pb := 0x10000000000000200#65 })
    (fun s => s.nb == 0x80000000000001#56 && s.ph == 0x4#4) = true := by decide
theorem test_segc_raises : ran (exec .segc { at' 0x3#4 0#6 with pb := 513#65 })
    (fun s => s.nb == 0#56 && s.ecode == 2#4 && s.status == 0x24#32) = true := by decide
theorem test_ldb_abc : ran (exec .ldb (abcAt 0x5#4)) (fun s => s.b[0] == 0x61#8 && s.b[2] == 0x63#8 && s.b[3] == 0x80#8 &&
    s.b[4] == 0#8 && s.b[55] == 0#8 && s.b[62] == 0#8 && s.b[63] == 0x18#8 && s.ph == 0x6#4) = true := by decide +kernel
theorem test_ldb_unanswered :
    faults (exec .ldb { abcAt 0x5#4 with mem := [(0, 0x61#8), (2, 0x63#8)] }) .messageByteUnanswered = true := by
  decide +kernel

/-! ### Schedule, rounds, fold and digest of `abc` (Parts 5.2, 6.2 to 6.4) -/

/-- A schedule that holds the words of `abc` that the tests read. -/
def abcSchedule : Schedule := Vector.ofFn fun k =>
  match k.val with
  | 0 => 0x61626380#32
  | 15 => 0x00000018#32
  | 16 => 0x61626380#32
  | 47 => 0x065c43da#32
  | 48 => 0xfb3e89cb#32
  | 56 => 0xef57b9cd#32
  | 61 => 0x668b2ff8#32
  | _ => 0#32

theorem test_ldw_0 : ran (exec (.ldwT 0#6) { abcAt 0x6#4 with
      b := (((Vector.replicate 64 0#8).set 0 0x61#8).set 1 0x62#8 |>.set 2 0x63#8).set 3 0x80#8 })
    (fun s => s.w[0] == 0x61626380#32 && s.ph == 0x6#4 && s.t == 1#6) = true := by decide
theorem test_ldw_15 : ran (exec (.ldwT 15#6) { abcAt 0x6#4 with t := 15#6, b := (Vector.replicate 64 0#8).set 63 0x18#8 })
    (fun s => s.w[15] == 0x00000018#32 && s.ph == 0x7#4 && s.t == 16#6) = true := by decide
theorem test_exp_17 : ran (exec (.expT 17#6) { abcAt 0x7#4 with t := 17#6, w := abcSchedule })
    (fun s => s.w[17] == 0x000f0000#32 && s.ph == 0x7#4 && s.t == 18#6) = true := by decide
theorem test_exp_63 : ran (exec (.expT 63#6) { abcAt 0x7#4 with t := 63#6, w := abcSchedule })
    (fun s => s.w[63] == 0x12b1edeb#32 && s.ph == 0x8#4 && s.t == 0#6) = true := by decide
theorem test_init : ran (exec .init { at' 0x4#4 0#6 with j := 7#56 })
    (fun s => s.h[0] == 0x6a09e667#32 && s.h[7] == 0x5be0cd19#32 && s.j == 0#56 && s.ph == 0x5#4) = true := by decide
theorem test_ldr : ran (exec .ldr (abcAt 0x8#4))
    (fun s => s.r[0] == 0x6a09e667#32 && s.r[4] == 0x510e527f#32 && s.ph == 0x9#4 && s.t == 0#6) = true := by decide
theorem test_rnd_0 : ran (exec (.rndT 0#6) { abcAt 0x9#4 with r := initialHash, w := abcSchedule })
    (fun s => s.r == #v[0x5d6aebcd#32, 0x6a09e667#32, 0xbb67ae85#32, 0x3c6ef372#32, 0xfa2a4622#32, 0x510e527f#32,
      0x9b05688c#32, 0x1f83d9ab#32] && s.ph == 0x9#4 && s.t == 1#6) = true := by decide
/-- From the row of `RND 62` to the row of `RND 63`. -/
theorem test_rnd_63 : ran (exec (.rndT 63#6) { abcAt 0x9#4 with
      t := 63#6
      w := (Vector.replicate 64 0#32).set 63 0x12b1edeb#32
      r := #v[0xd39a2165#32, 0x04d24d6c#32, 0xb85e2ce9#32, 0xb6ae8fff#32, 0xfb121210#32, 0x948d25b6#32, 0x961f4894#32,
        0xb21bad3d#32] })
    (fun s => s.r[0] == 0x506e3058#32 && s.r[4] == 0x5ef50f24#32 && s.r[7] == 0x961f4894#32 && s.ph == 0xA#4 &&
      s.t == 0#6) = true := by decide
/-- The working registers of `abc` after round 63. -/
def abcRounded : Eight := #v[0x506e3058#32, 0xd39a2165#32, 0x04d24d6c#32, 0xb85e2ce9#32, 0x5ef50f24#32, 0xfb121210#32,
  0x948d25b6#32, 0x961f4894#32]
/-- The Hash State of `abc` after its fold. -/
def abcHash : Eight := #v[0xba7816bf#32, 0x8f01cfea#32, 0x414140de#32, 0x5dae2223#32, 0xb00361a3#32, 0x96177a9c#32,
  0xb410ff61#32, 0xf20015ad#32]
theorem test_fold_last : ran (exec .fold { abcAt 0xA#4 with r := abcRounded })
    (fun s => s.h == abcHash && s.j == 1#56 && s.ph == 0xB#4) = true := by decide
theorem test_fold_more : ran (exec .fold { abcAt 0xA#4 with nb := 2#56 }) (fun s => s.j == 1#56 && s.ph == 0x5#4) = true := by
  decide
theorem test_asm : ran (exec .asm { abcAt 0xB#4 with h := abcHash })
    (fun s => s.dg[0] == 0xba#8 && s.dg[1] == 0x78#8 && s.dg[3] == 0xbf#8 && s.dg[28] == 0xf2#8 && s.dg[31] == 0xad#8 &&
      s.status == 2#32) = true := by decide +kernel

/-! ### The other turns -/

theorem test_reset_event : ran (step { abcAt 0x9#4 with agenda := [.reset] })
    (fun s => s.ph == 0x0#4 && s.len == 0#64 && s.status == 0#32 && s.mem == abcPlaced.mem) = true := by decide
theorem test_place : ran (step { State.reset with agenda := [.place 5 0x41#8, .place 2 0x42#8] })
    (fun s => ran (step s) (fun t => t.mem == [(2, 0x42#8), (5, 0x41#8)])) = true := by decide
theorem test_place_in_message_refused :
    refuses (step { abcAt 0x9#4 with agenda := [.place 2 0#8] }) .messageWriteWhileBusy = true ∧
    ran (step { abcAt 0x9#4 with agenda := [.place 3 0#8] }) (fun s => s.mem.length == 4) = true := by decide
theorem test_free : ran (step { abcPlaced with agenda := [.free 1] }) (fun s => s.mem == [(0, 0x61#8), (2, 0x63#8)]) = true := by
  decide

/-- Freeing an offset the M-space does not have changes nothing (log entry 18); placing a byte there faults. -/
theorem test_free_outside : ran (step { abcPlaced with agenda := [.free (2 ^ 61)] }) (fun s => s == abcPlaced) = true ∧
    faults (step { abcPlaced with agenda := [.place (2 ^ 61) 0#8] }) .outsideMSpace = true := by decide

/-! ### Witnesses: for each statement with hypotheses, states and operands that meet them, at the ends of their ranges -/

theorem test_witness_encode_then_decode : Instr.wellFormed (.ldwT 0#6) = true ∧ Instr.wellFormed (.ldwT 15#6) = true ∧
    Instr.wellFormed (.expT 16#6) = true ∧ Instr.wellFormed (.expT 63#6) = true ∧ Instr.wellFormed (.rndT 63#6) = true ∧
    Instr.wellFormed (.wrCmd 0xffffffff#32) = true := by decide

/-- A write, a read with a data word it does not carry, a command and a `SEQ` value. -/
theorem test_witness_decoded_word : decode (.access 0b1000000#7 5#32) = .ok (.wrCmd 5#32) ∧
    decode (.access 0b0010000#7 0xffffffff#32) = .ok .rdDigest0 ∧ decode (.command 1#32) = .ok .digest ∧
    decode (.seq 0x27f#10) = .ok (.rndT 63#6) := ⟨rfl, rfl, rfl, rfl⟩

/-- Each way to be reserved beside its nearest defined neighbour. -/
theorem test_witness_reserved_boundaries :
    decodeHost ⟨false, 32, 0x2C, 0#32⟩ = .ok .rdDigest7 ∧ decodeHost ⟨false, 32, 0x30, 0#32⟩ = .error .reservedSlot ∧
    decodeHost ⟨true, 32, 0x3F, 0#32⟩ = .error .misaligned ∧ decodeHost ⟨true, 32, 0x40, 0#32⟩ = .error .outsideWindow ∧
    decodeHost ⟨true, 16, 0x08, 0#32⟩ = .error .accessWidth ∧ decodeCommand 0x00000101#32 = .error .reservedCommand ∧
    decode (.seq (seqWord 0xD#4 0#6)) = .ok .errh ∧ decode (.seq (seqWord 0xD#4 1#6)) = .error .reservedSeq ∧
    decode (.seq (seqWord 0xE#4 0#6)) = .error .reservedSeq ∧ decode (.seq (seqWord 0xF#4 63#6)) = .error .reservedSeq ∧
    decode (.seq (seqWord 0x6#4 16#6)) = .error .reservedSeq ∧ decode (.seq (seqWord 0x7#4 15#6)) = .error .reservedSeq :=
  ⟨rfl, rfl, rfl, rfl, rfl, rfl, rfl, rfl, rfl, rfl, rfl, rfl⟩

theorem test_witness_step_runs : (at' 0x7#4 63#6).turn = .sequencer ∧
    decode (.seq (seqWord (at' 0x7#4 63#6).ph (at' 0x7#4 63#6).t)) = .ok (.expT 63#6) ∧
    ({ State.reset with agenda := [.host commandAccess] } : State).turn = .host commandAccess ∧
    decodeHost commandAccess = .ok (.wrCmd 1#32) := ⟨rfl, rfl, rfl, rfl⟩

theorem test_witness_reserved_slots :
    ({ State.reset with agenda := [.host ⟨true, 32, 0x3C, 7#32⟩] } : State).turn = .host ⟨true, 32, 0x3C, 7#32⟩ ∧
    ({ abcAt 0x9#4 with agenda := [.host ⟨true, 32, 0x00, 0#32⟩] } : State).turn = .host ⟨true, 32, 0x00, 0#32⟩ :=
  ⟨rfl, rfl⟩

/-- Busy and not busy, at the first and last phases of either kind. -/
theorem test_witness_busy : (at' 0x0#4 0#6).busy = false ∧ (at' 0x1#4 0#6).busy = true ∧ (at' 0xB#4 0#6).busy = true ∧
    (at' 0xC#4 0#6).busy = false ∧ (at' 0xD#4 0#6).busy = false ∧ (at' 0xE#4 0#6).busy = true := by decide

theorem test_witness_host_operation_while_busy : isHostOperation (.wrLenLo 7#32) ∧ isHostOperation .rdStatus ∧
    (at' 0x9#4 0#6).busy = true ∧ ran (exec (.wrLenLo 7#32) (at' 0x9#4 0#6)) (fun _ => true) = true ∧
    ran (exec .rdStatus (at' 0x9#4 0#6)) (fun _ => true) = true := ⟨trivial, trivial, by decide, by decide, by decide⟩

theorem test_witness_chk : (0x1fffffffffffffff#64).toNat < 2 ^ 61 ∧ 2 ^ 61 ≤ (0x2000000000000000#64).toNat ∧
    2 ^ 61 ≤ (0xffffffffffffffff#64).toNat := by decide

theorem test_witness_segc : (511#65).toNat % 512 ≠ 0 ∧ (512#65).toNat % 512 = 0 ∧
    (0x10000000000000200#65).toNat % 512 = 0 := by decide

theorem test_witness_invalid_padding_is_dead :
    ran (exec .padl { at' 0x2#4 0#6 with lb := 0xffffffffffffffff#64 }) (fun _ => true) = true := by decide

/-- Every message byte of the block is there: `abc`, and a block that reads none. -/
theorem test_witness_ldb :
    (∀ k, k < 64 → 64 * (abcAt 0x5#4).j.toNat + k < (abcAt 0x5#4).lreg.toNat →
      64 * (abcAt 0x5#4).j.toNat + k < 2 ^ 61 ∧ ∃ b, Memory.read (abcAt 0x5#4).mem (64 * (abcAt 0x5#4).j.toNat + k) = some b) ∧
    (∀ k, k < 64 → 64 * (at' 0x5#4 0#6).j.toNat + k < (at' 0x5#4 0#6).lreg.toNat → False) := by
  have h3 : 64 * (abcAt 0x5#4).j.toNat = 0 ∧ (abcAt 0x5#4).lreg.toNat = 3 := by decide
  have h0 : (at' 0x5#4 0#6).lreg.toNat = 0 := by decide
  refine ⟨fun k _ h => ?_, fun k _ h => by omega⟩
  rw [h3.1, h3.2] at h
  rw [h3.1]
  have hk : k = 0 ∨ k = 1 ∨ k = 2 := by omega
  rcases hk with rfl | rfl | rfl
  · exact ⟨by decide, 0x61#8, rfl⟩
  · exact ⟨by decide, 0x62#8, rfl⟩
  · exact ⟨by decide, 0x63#8, rfl⟩

/-- The four ranges of LDB where they meet, for `abc`: the last message byte, the 0x80 byte, the last zero, the first and
the last byte of the length. -/
theorem test_ldb_ranges : blockByte (abcAt 0x5#4) 2 = .ok 0x63#8 ∧ blockByte (abcAt 0x5#4) 3 = .ok 0x80#8 ∧
    blockByte (abcAt 0x5#4) 4 = .ok 0x00#8 ∧ blockByte (abcAt 0x5#4) 55 = .ok 0x00#8 ∧
    blockByte (abcAt 0x5#4) 56 = .ok 0x00#8 ∧ blockByte (abcAt 0x5#4) 63 = .ok 0x18#8 :=
  ⟨rfl, rfl, rfl, rfl, rfl, rfl⟩

/-- LDB stops: on a byte that is not there, and on one outside the M-space. -/
theorem test_witness_ldb_stops : blockByte { abcAt 0x5#4 with mem := [] } 0 = .error .messageByteUnanswered ∧
    blockByte { at' 0x5#4 0#6 with j := 0x80000000000000#56, lreg := 0x2000000000000001#64 } 0 = .error .outsideMSpace :=
  ⟨rfl, rfl⟩

/-- About to load the block of `abc`, of which only the first byte is in the M-space. -/
def abcCut : State := { abcAt 0x5#4 with mem := [(0, 0x61#8)] }

/-- The first byte LDB misses: offset 1 of `abc` with 0 there and 1 and 2 not; and one outside the M-space. -/
theorem test_witness_ldb_first_missing :
    ¬ missesByte abcCut 0 ∧ missesByte abcCut 1 ∧ missesByte abcCut 2 ∧ ¬ missesByte abcCut 3 ∧
    missesByte { at' 0x5#4 0#6 with j := 0x80000000000000#56, lreg := 0x2000000000000001#64 } 0 := by
  simp only [missesByte]
  decide

theorem test_ldb_outside :
    faults (exec .ldb { at' 0x5#4 0#6 with j := 0x80000000000000#56, lreg := 0x2000000000000001#64 }) .outsideMSpace = true := by
  decide +kernel

theorem test_witness_fold : (abcAt 0xA#4).j.toNat + 1 = (abcAt 0xA#4).nb.toNat ∧
    (0#56).toNat + 1 ≠ (2#56).toNat ∧ (0xfffffffffffffe#56).toNat + 1 < 2 ^ 56 ∧
    ¬ (0xffffffffffffff#56).toNat + 1 < 2 ^ 56 := by decide

/-- For every phase of R73 there is a sequencer step to a next state, at both ends of an index range. -/
theorem test_witness_next_state_table :
    ([(0x0#4, 0#6), (0x1#4, 0#6), (0x2#4, 0#6), (0x3#4, 0#6), (0x4#4, 0#6), (0x6#4, 14#6), (0x6#4, 15#6), (0x7#4, 62#6),
      (0x7#4, 63#6), (0x8#4, 0#6), (0x9#4, 62#6), (0x9#4, 63#6), (0xA#4, 0#6), (0xC#4, 0#6), (0xD#4, 0#6)].all
      fun (x : BitVec 4 × BitVec 6) => (at' x.1 x.2).turn == .sequencer && ran (step (at' x.1 x.2)) fun _ => true) = true ∧
    ran (step (abcAt 0x5#4)) (fun _ => true) = true ∧ ran (step (abcAt 0xB#4)) (fun _ => true) = true := by
  refine ⟨by decide, by decide +kernel, by decide +kernel⟩

theorem test_witness_exec_next : ran (exec .fold (at' 0xA#4 0#6)) (fun _ => true) = true ∧
    ran (exec .rdCmd (at' 0xA#4 0#6)) (fun _ => true) = true ∧ isHostOperation .rdCmd ∧ ¬ isHostOperation .fold :=
  ⟨by decide, by decide, trivial, id⟩

/-- Of the host's operations the reads alone are reads: the first and the last read, a write, the command. -/
theorem test_witness_host_read : isHostRead .rdCmd ∧ isHostRead .rdDigest7 ∧ ¬ isHostRead (.wrCmd 1#32) ∧
    ¬ isHostRead (.wrDigest7 0#32) ∧ ¬ isHostRead .digest ∧ ¬ isHostRead .fold := by
  simp only [isHostRead, encode]
  decide

/-- The invariant holds of a busy state, one in FIN and one in ERRH. -/
theorem test_witness_inv_busy : Inv (abcAt 0x5#4) := by constructor <;> decide
theorem test_witness_inv_done : Inv { abcAt 0xC#4 with j := 1#56, dg := abcDigest } := by constructor <;> decide
theorem test_witness_inv_error : Inv { at' 0xD#4 0#6 with ecode := 1#4, lreg := 0x2000000000000000#64 } := by
  constructor <;> decide

/-- From each of them there is a step to a next state. -/
theorem test_witness_inv_steps : ran (step (abcAt 0x5#4)) (fun _ => true) = true ∧
    ran (step { abcAt 0xC#4 with j := 1#56, dg := abcDigest, agenda := [.free 0] }) (fun _ => true) = true := by
  refine ⟨by decide +kernel, by decide⟩

theorem test_witness_reset_turn : ({ abcAt 0x9#4 with agenda := [.reset] } : State).turn = .reset := rfl

/-- A byte placed at the last offset, and just past the message while busy; a byte freed. -/
theorem test_witness_place_and_free :
    ({ State.reset with agenda := [.place (2 ^ 61 - 1) 0#8] } : State).turn = .place (2 ^ 61 - 1) 0#8 ∧
    ¬ ((abcAt 0x9#4).busy = true ∧ 3 < (abcAt 0x9#4).lreg.toNat) ∧ Memory.wf abcPlaced.mem ∧
    ({ abcPlaced with agenda := [.free 1] } : State).turn = .free 1 ∧ ¬ (abcPlaced.busy = true ∧ 1 < abcPlaced.lreg.toNat) := by
  refine ⟨rfl, by decide, by decide, rfl, by decide⟩

theorem test_witness_message_stable : (abcAt 0x9#4).busy = true ∧ 2 < (abcAt 0x9#4).lreg.toNat ∧
    ran (step { abcAt 0x9#4 with agenda := [.free 3] }) (fun _ => true) = true := by decide

theorem test_witness_oversized : State.reset.busy = false ∧ (at' 0xD#4 0#6).busy = false ∧
    2 ^ 61 ≤ ({ State.reset with len := 0x2000000000000000#64 } : State).len.toNat ∧
    2 ^ 61 ≤ ({ State.reset with len := 0xffffffffffffffff#64 } : State).len.toNat := by decide

/-- LDB of the empty message is ready and its 64 bytes are those of Part 3.2. -/
theorem test_witness_block_steps : (let s : State := { at' 0x5#4 0#6 with nb := 1#56 }
    s.ph = 0x5#4 ∧ s.t = 0#6 ∧ s.agenda = [] ∧ s.j.toNat + 1 = s.nb.toNat ∧
      ∀ k (hk : k < 64), blockByte s k = .ok emptyBlock[k]) := by
  refine ⟨rfl, rfl, rfl, rfl, fun k hk => ?_⟩
  interval_cases k <;> rfl

/-- The empty message and `abc` are in place in states that are not busy. -/
theorem test_witness_digest_contract : State.reset.busy = false ∧ ([] : List Byte).length < 2 ^ 61 ∧
    State.reset.len.toNat = ([] : List Byte).length ∧ State.reset.holds [] ∧
    abcPlaced.busy = false ∧ abc.length < 2 ^ 61 ∧ abcPlaced.len.toNat = abc.length ∧ abcPlaced.holds abc := by decide

/-- A computation of `abc` just accepted, and one about to load its block. -/
theorem test_witness_computes_chk : Computes abc { abcPlaced with lreg := 3#64, ph := 0x1#4 } := by
  constructor <;> decide
theorem test_witness_computes_ldb : Computes abc (abcAt 0x5#4) := by
  constructor <;> decide

/-- The same with a host access first, which leaves the engine where it was. -/
theorem test_witness_computes_host_turn :
    Computes abc { abcAt 0x5#4 with agenda := [.host ⟨false, 32, 0x04, 0#32⟩] } ∧
    ran (step { abcAt 0x5#4 with agenda := [.host ⟨false, 32, 0x04, 0#32⟩] })
      (fun s => s.busy && s.turn == .sequencer && s.ph == 0x5#4 && s.answers == [1#32]) = true :=
  ⟨by constructor <;> decide, by decide⟩

/-- From it the sequencer steps, and so do a host access and a host's change outside the message. -/
theorem test_witness_interleaving : (abcAt 0x5#4).turn ≠ .reset ∧ (abcAt 0x5#4).busy = true ∧
    (abcAt 0x5#4).turn = .sequencer ∧ ran (step (abcAt 0x5#4)) (fun _ => true) = true ∧
    ran (step { abcAt 0x5#4 with agenda := [.host commandAccess] }) (fun _ => true) = true ∧
    ran (step { abcAt 0x5#4 with agenda := [.place 3 0#8] }) (fun _ => true) = true :=
  ⟨by decide, by decide, rfl, by decide +kernel, by decide, by decide⟩

/-- The computation of the empty message, finished: DG holds its digest. -/
def emptyFinished : State :=
  { at' 0xC#4 0#6 with pb := 0x200#65, nb := 1#56, j := 1#56, dg := assemble (hashBlocks [blockOfBits (padBits []) 0]) }

theorem test_empty_segment : segment (padBits []) = .ok [blockOfBits (padBits []) 0] := by
  have h : (padBits []).length = 512 := by simp [padBits, paddedBits]
  unfold Machine.segment
  rw [h]
  rfl

theorem test_witness_computes_finished : Computes [] emptyFinished := by
  constructor
  case digest =>
    intro _
    unfold digestOf
    rw [if_neg (by simp), test_empty_segment]
    rfl
  all_goals decide

/-- Not busy, it meets the other hypotheses with a read, with a reserved command word, with the sequencer's turn and with
bytes placed and freed in the old message; all but the reserved word go on. -/
theorem test_witness_interleaving_finished : emptyFinished.busy = false ∧ emptyFinished.turn ≠ .reset ∧
    decodeHost ⟨false, 32, 0x10, 0#32⟩ ≠ .ok (.wrCmd 1#32) ∧ decodeHost ⟨true, 32, 0x00, 2#32⟩ ≠ .ok (.wrCmd 1#32) ∧
    ran (step emptyFinished) (fun _ => true) = true ∧
    ran (step { emptyFinished with agenda := [.host ⟨false, 32, 0x10, 0#32⟩] }) (fun s => s.ph == 0xC#4) = true ∧
    ran (step { emptyFinished with agenda := [.place 0 7#8] }) (fun s => s.mem == [(0, 7#8)]) = true ∧
    ran (step { emptyFinished with agenda := [.free 0] }) (fun s => s.mem == []) = true :=
  ⟨by decide, by simp [emptyFinished, at', State.turn, State.reset], nofun, nofun, by decide, by decide, by decide,
    by decide⟩

/-- Two states in FIN that differ only in what the host cannot read. -/
theorem test_witness_same_to_host : SameToHost (at' 0xC#4 0#6) { at' 0xC#4 0#6 with h := abcHash, lreg := 5#64, j := 9#56 } ∧
    (at' 0xC#4 0#6).busy = false := ⟨by constructor <;> decide, by decide⟩

/-- The ends of the ranges of indexes and amounts that the statements about functions quantify over. -/
theorem test_witness_function_ranges : (rotr 1#32 ⟨1, by decide⟩).getLsbD 31 = true ∧
    (rotr 0x80000000#32 ⟨31, by decide⟩).getLsbD 0 = true ∧ (shr 0x80000000#32 ⟨31, by decide⟩).getLsbD 0 = true ∧
    (ssig0 0x80000000#32).getLsbD 28 = true ∧ (ssig1 0x80000000#32).getLsbD 21 = true ∧ byteBe64 0xff#64 7 = 0xff#8 := by
  decide

theorem test_witness_padded_bits : ([] : List Byte).length < 2 ^ 61 ∧ 63 < 64 * blockCount ([] : List Byte).length ∧
    padByte [] 0 = 0x80#8 ∧ paddedBit [] 0 = true ∧ paddedBit [] 1 = false ∧ padByte abc 63 = 0x18#8 ∧
    paddedBit abc (8 * 63 + 3) = true ∧ paddedBit abc (8 * 63 + 7) = false := by decide

theorem test_zeros_length (n : Nat) : n ≤ (List.replicate n (0x00#8 : Byte)).length := by simp

/-- A message below the bound and one at it. -/
theorem test_witness_digest_total : abc.length < 2 ^ 61 ∧ 2 ^ 61 ≤ (List.replicate (2 ^ 61) (0x00#8 : Byte)).length :=
  ⟨by decide, test_zeros_length (2 ^ 61)⟩

end Sys2Proof.Tests
end

section
/-! The primitive operations on words and bytes, bit by bit and by their values
(00_scope.md R10, R11, R12, R14), and what a step runs (R5). -/

namespace Sys2Proof.Machine

/-! ### Rotation and shift, bit by bit (R11, R12) -/

/-- On the amounts that can be written, `ROTR` is the library's rotation. -/
theorem rotr_eq_rotateRight (x : Word) (n : Amount) : rotr x n = x.rotateRight n.val := by
  have hn : n.val % 32 = n.val := Nat.mod_eq_of_lt (by have := n.property; omega)
  rw [BitVec.rotateRight_def, hn, rotr]

/-- Bit `i` comes from bit `i + n` while that is in the word, and from the bits that wrap around after that. -/
theorem rotr_getLsbD (x : Word) (n : Amount) {i : Nat} (hi : i < 32) :
    (rotr x n).getLsbD i = x.getLsbD ((i + n.val) % 32) := by
  have hbounds := n.property
  have hn : n.val % 32 = n.val := Nat.mod_eq_of_lt (by omega)
  rw [rotr_eq_rotateRight, BitVec.getLsbD_rotateRight, hn]
  by_cases hin : i < 32 - n.val
  · have hstay : (i + n.val) % 32 = n.val + i := by omega
    simp only [hin, hstay, decide_true, cond_true]
  · have hwrap : (i + n.val) % 32 = i - (32 - n.val) := by omega
    simp only [hin, hi, hwrap, decide_true, decide_false, cond_false, Bool.true_and]

/-- Bits shifted in from above the word are zero. -/
theorem shr_getLsbD (x : Word) (n : Amount) (i : Nat) :
    (shr x n).getLsbD i = (decide (i + n.val < 32) && x.getLsbD (i + n.val)) := by
  rw [shr, BitVec.getLsbD_ushiftRight, Nat.add_comm n.val i]
  by_cases hin : i + n.val < 32
  · simp [hin]
  · simp [hin, x.getLsbD_of_ge _ (Nat.le_of_not_lt hin)]

/-! ### Addition, assembly and disassembly of bytes (R10, R14) -/

@[simp] theorem add32_toNat (x y : Word) : (add32 x y).toNat = (x.toNat + y.toNat) % 2 ^ 32 := by
  simp [add32]

/-- One more byte at the low end: what was there moves up by 8 bits. -/
theorem append_byte_toNat {w : Nat} (x : BitVec w) (b : Byte) : (x ++ b).toNat = x.toNat * 2 ^ 8 + b.toNat := by
  rw [BitVec.toNat_append, ← Nat.shiftLeft_add_eq_or_of_lt b.isLt, Nat.shiftLeft_eq]

theorem be32_toNat (b0 b1 b2 b3 : Byte) :
    (be32 b0 b1 b2 b3).toNat = b0.toNat * 2 ^ 24 + b1.toNat * 2 ^ 16 + b2.toNat * 2 ^ 8 + b3.toNat := by
  rw [be32, append_byte_toNat, append_byte_toNat, append_byte_toNat]
  ring

/-- Disassembly undoes assembly: byte `i` lies above the `3 - i` bytes appended after it. -/
theorem byteBe32_be32 (b0 b1 b2 b3 : Byte) (i : Fin 4) :
    byteBe32 (be32 b0 b1 b2 b3) i = #v[b0, b1, b2, b3][i] := by
  unfold byteBe32 be32
  match i with
  | 0 =>
    rw [BitVec.extractLsb'_append_eq_of_le (by decide), BitVec.extractLsb'_append_eq_of_le (by decide)]
    exact BitVec.extractLsb'_append_eq_left
  | 1 =>
    rw [BitVec.extractLsb'_append_eq_of_le (by decide), BitVec.extractLsb'_append_eq_of_le (by decide)]
    exact BitVec.extractLsb'_append_eq_right
  | 2 =>
    rw [BitVec.extractLsb'_append_eq_of_le (by decide)]
    exact BitVec.extractLsb'_append_eq_right
  | 3 => exact BitVec.extractLsb'_append_eq_right

theorem byteBe64_toNat (v : BitVec 64) {q : Nat} (hq : q < 8) :
    (byteBe64 v q).toNat = v.toNat / 2 ^ (56 - 8 * q) % 2 ^ 8 := by
  rw [byteBe64, if_pos hq, BitVec.extractLsb'_toNat, Nat.shiftRight_eq_div_pow]

/-! ### The obligations -/

/-- Settles O50: in a rotation the bits that leave the word at the bottom come in at the top, in a shift zeros do. -/
theorem rotateAndShiftBits : Obligations.RotateAndShiftBits :=
  fun x n i hi => ⟨rotr_getLsbD x n hi, shr_getLsbD x n i⟩

/-- Settles O5, by the rules of a step for either agent. -/
theorem stepRunsTheDecodedOperation : Obligations.StepRunsTheDecodedOperation :=
  ⟨fun _ _ hturn hop => step_sequencer hturn hop, fun _ _ _ hturn hop => step_host hturn hop,
    fun _ hagenda => State.turn_nil hagenda, fun _ _ _ hagenda => State.turn_cons hagenda⟩

/-- Settles O49: an assembled word is the value of its bytes in base 256, and a byte of an assembled word is the part
appended there. -/
theorem primitiveArithmetic : Obligations.PrimitiveArithmetic := by
  refine ⟨add32_toNat, be32_toNat, fun b0 b1 b2 b3 => ?_, fun v q hq => byteBe64_toNat v hq⟩
  exact ⟨byteBe32_be32 b0 b1 b2 b3 0, byteBe32_be32 b0 b1 b2 b3 1, byteBe32_be32 b0 b1 b2 b3 2,
    byteBe32_be32 b0 b1 b2 b3 3⟩

end Sys2Proof.Machine
end

section
/-! The machine's state: what an operation of the host can do, which registers an operation writes (10_state.md R36),
the status word (R30), the invariant under every step (R25, R28, R29, R31), and the constant tables (R34, R35). -/

namespace Sys2Proof.Machine

/-! ### The host's operations -/

/-- Bit 6 of a selector is `we` (R71). -/
@[simp] theorem selectorOf_getElem_six (we : Bool) (off : Nat) : (selectorOf we off)[6] = we :=
  (BitVec.getElem_append (by decide)).trans (by simp)

/-- What an operation `i` of the host can do in `s`, one constructor per effect (R91 to R100, R102). -/
inductive HostMove (s : State) (i : Instr) : State → Prop
  | ignored (noRead : ¬ isHostRead i) : HostMove s i s
  | answered (read : isHostRead i) (x : Word) : HostMove s i (s.answer x)
  | length (op : (∃ v, i = .wrLenLo v) ∨ ∃ v, i = .wrLenHi v) (rest : s.busy = false) (v : BitVec 64) :
      HostMove s i (s.setLen v)
  | accepted (op : i = .digest ∨ ∃ v, i = .wrCmd v) (rest : s.busy = false) : HostMove s i s.accept

theorem hostMove_of_writeLen {s t : State} {i : Instr} {v : BitVec 64} (op : (∃ v, i = .wrLenLo v) ∨ ∃ v, i = .wrLenHi v)
    (h : writeLen v s = .next t) : HostMove s i t := by
  rcases writeLen_next h with ⟨-, rfl⟩ | ⟨rest, rfl⟩
  · exact .ignored (by rcases op with ⟨v, rfl⟩ | ⟨v, rfl⟩ <;> simp [isHostRead, encode])
  · exact .length op rest v

theorem hostMove_of_digestCommand {s t : State} {i : Instr} (op : i = .digest ∨ ∃ v, i = .wrCmd v)
    (h : digestCommand s = .next t) : HostMove s i t := by
  rcases digestCommand_next h with ⟨-, rfl⟩ | ⟨rest, rfl⟩
  · exact .ignored (by rcases op with rfl | ⟨v, rfl⟩ <;> simp [isHostRead, encode])
  · exact .accepted op rest

/-- A write of `CMD` that goes on is the command. -/
theorem execWrCmd_next {v : Word} {s t : State} (h : execWrCmd v s = .next t) : digestCommand s = .next t := by
  unfold execWrCmd at h
  split at h
  · exact h
  · cases h

/-- What a host's operation does is a move of the relation. -/
theorem hostMove_of_exec {s t : State} {i : Instr} (hi : isHostOperation i) (h : exec i s = .next t) :
    HostMove s i t := by
  cases i
  case wrCmd v => exact hostMove_of_digestCommand (.inr ⟨v, rfl⟩) (execWrCmd_next h)
  case digest => exact hostMove_of_digestCommand (.inl rfl) h
  case wrLenLo v => exact hostMove_of_writeLen (.inl ⟨v, rfl⟩) h
  case wrLenHi v => exact hostMove_of_writeLen (.inr ⟨v, rfl⟩) h
  case wrStatus | wrDigest0 | wrDigest1 | wrDigest2 | wrDigest3 | wrDigest4 | wrDigest5 | wrDigest6 | wrDigest7 =>
    cases h
    exact .ignored (by simp [isHostRead, encode])
  case rdCmd | rdStatus | rdLenLo | rdLenHi | rdDigest0 | rdDigest1 | rdDigest2 | rdDigest3 | rdDigest4 | rdDigest5
      | rdDigest6 | rdDigest7 =>
    cases h
    exact .answered (by simp [isHostRead, encode]) _
  all_goals exact hi.elim

theorem isHostOperation_of_decodeAccess {sel : BitVec 7} {v : Word} {i : Instr} (h : decodeAccess sel v = .ok i) :
    isHostOperation i := by
  unfold decodeAccess at h
  split at h
  case h_25 => split at h <;> cases h
  all_goals
    cases h
    trivial

/-- A host access decodes to an operation of the host. -/
theorem isHostOperation_of_decodeHost {a : Access} {i : Instr} (h : decodeHost a = .ok i) : isHostOperation i := by
  unfold decodeHost at h
  split at h
  · cases h
  · split at h
    · cases h
    · exact isHostOperation_of_decodeAccess h

/-! ### The registers an operation writes (R36) -/

/-- What an operation can do, one constructor per row of the access matrix (R36): the registers it may change hold any
value afterwards, all others are those of `s`. -/
inductive MatrixRow (s : State) : Instr → State → Prop
  | host {i : Instr} {t : State} (move : HostMove s i t) : MatrixRow s i t
  | halt {i : Instr} (op : i = .idle ∨ i = .fin ∨ i = .errh) : MatrixRow s i s
  | chk (lb : BitVec 64) (e p : BitVec 4) : MatrixRow s .chk { s with lb := lb, ecode := e, ph := p, t := 0#6 }
  | padl (pb : BitVec 65) (p : BitVec 4) : MatrixRow s .padl { s with pb := pb, ph := p, t := 0#6 }
  | segc (nb : BitVec 56) (e p : BitVec 4) : MatrixRow s .segc { s with nb := nb, ecode := e, ph := p, t := 0#6 }
  | init (h : Eight) (j : BitVec 56) (p : BitVec 4) : MatrixRow s .init { s with h := h, j := j, ph := p, t := 0#6 }
  | ldb (b : Block) (p : BitVec 4) : MatrixRow s .ldb { s with b := b, ph := p, t := 0#6 }
  | ldw (x : BitVec 6) (v : Word) (p : BitVec 4) (y : BitVec 6) :
      MatrixRow s (.ldwT x) { s with w := s.w.set x.toNat v x.isLt, ph := p, t := y }
  | exp (x : BitVec 6) (v : Word) (p : BitVec 4) (y : BitVec 6) :
      MatrixRow s (.expT x) { s with w := s.w.set x.toNat v x.isLt, ph := p, t := y }
  | ldr (r : Eight) (p : BitVec 4) : MatrixRow s .ldr { s with r := r, ph := p, t := 0#6 }
  | rnd (x : BitVec 6) (r : Eight) (p : BitVec 4) (y : BitVec 6) :
      MatrixRow s (.rndT x) { s with r := r, ph := p, t := y }
  | fold (h : Eight) (j : BitVec 56) (p : BitVec 4) : MatrixRow s .fold { s with h := h, j := j, ph := p, t := 0#6 }
  | asm (d : DigestBytes) (p : BitVec 4) : MatrixRow s .asm { s with dg := d, ph := p, t := 0#6 }

/-- What an operation that goes on does is shown in its row of the matrix. -/
theorem matrixRow_of_exec {s t : State} {i : Instr} (h : exec i s = .next t) : MatrixRow s i t := by
  cases i
  case idle => cases h; exact .halt (.inl rfl)
  case fin => cases h; exact .halt (.inr (.inl rfl))
  case errh => cases h; exact .halt (.inr (.inr rfl))
  case chk =>
    rcases execChk_cases s with ⟨-, he⟩ | ⟨-, he⟩ <;> obtain rfl := Host.Outcome.next.inj (he.symm.trans h)
    · exact .chk s.lb 1#4 0xD#4
    · exact .chk _ s.ecode _
  case padl => cases h; exact .padl _ _
  case segc =>
    rcases execSegc_cases s with ⟨-, he⟩ | ⟨-, he⟩ <;> obtain rfl := Host.Outcome.next.inj (he.symm.trans h)
    · exact .segc s.nb 2#4 0xD#4
    · exact .segc _ s.ecode _
  case init => cases h; exact .init _ _ _
  case ldb =>
    obtain ⟨v, -, rfl⟩ := execLdb_next h
    exact .ldb v _
  case ldwT x =>
    simp only [exec, execLdw] at h
    split at h
    · split at h <;> cases h <;> exact .ldw x _ _ _
    · cases h
  case expT x =>
    simp only [exec, execExp] at h
    split at h
    · split at h <;> cases h <;> exact .exp x _ _ _
    · cases h
  case ldr => cases h; exact .ldr _ _
  case rndT x =>
    simp only [exec, execRnd] at h
    split at h <;> cases h <;> exact .rnd x _ _ _
  case fold =>
    simp only [exec, execFold] at h
    split at h <;> cases h <;> exact .fold _ _ _
  case asm =>
    rw [execAsm_eq] at h
    obtain rfl := Host.Outcome.next.inj h
    exact .asm _ _
  all_goals exact .host (hostMove_of_exec trivial h)

/-- Writing entry `x` of `W` leaves the entries with another index alone. -/
theorem getElem_set_of_ofNat_ne {w : Schedule} {x : BitVec 6} {v : Word} {n : Nat} (hn : n < 64)
    (h : x ≠ BitVec.ofNat 6 n) : (w.set x.toNat v x.isLt)[n] = w[n] := by
  refine Vector.getElem_set_ne _ _ fun heq => h ?_
  rw [← heq, BitVec.ofNat_toNat, BitVec.setWidth_eq]

/-- Settles O32, row by row of the access matrix. -/
theorem accessMatrixOfWrites : Obligations.AccessMatrixOfWrites := by
  intro i s t h
  cases matrixRow_of_exec h with
  | host move =>
    cases move with
    | ignored noRead => simp [noRead]
    | answered read x => simp [read]
    | length op rest v => rcases op with ⟨x, rfl⟩ | ⟨x, rfl⟩ <;> simp [isHostRead, encode]
    | accepted op rest => rcases op with rfl | ⟨x, rfl⟩ <;> simp [isHostRead, encode, State.accept_frame]
  | halt op => rcases op with rfl | rfl | rfl <;> simp [isHostRead, isHostOperation, encode]
  | ldw x v p y | exp x v p y =>
    simp +contextual [isHostRead, isHostOperation, encode, getElem_set_of_ofNat_ne]
  | chk | padl | segc | init | ldb | ldr | rnd | fold | asm => simp [isHostRead, isHostOperation, encode]

/-! ### The status word (R30) -/

/-- The fields of `STATUS` at their places (R30): BUSY, DONE and ERR in bits 0 to 2, `ECODE` from bit 4 on. -/
theorem State.status_toNat (s : State) :
    s.status.toNat = s.busy.toNat + 2 * s.done.toNat + 4 * s.err.toNat + 16 * s.ecode.toNat := by
  have fields : ∀ (e : BitVec 4) (r d b : Bool),
      (0#24 ++ e ++ 0#1 ++ BitVec.ofBool r ++ BitVec.ofBool d ++ BitVec.ofBool b : BitVec 32).toNat =
        b.toNat + 2 * d.toNat + 4 * r.toNat + 16 * e.toNat := by decide
  exact fields s.ecode s.err s.done s.busy

/-- Bit 3 of `STATUS` is reserved (R30). -/
theorem State.status_getLsbD_three (s : State) : s.status.getLsbD 3 = false := by
  have zero : ∀ (e : BitVec 4) (r d b : Bool),
      (0#24 ++ e ++ 0#1 ++ BitVec.ofBool r ++ BitVec.ofBool d ++ BitVec.ofBool b : BitVec 32).getLsbD 3 = false := by
    decide
  exact zero s.ecode s.err s.done s.busy

theorem State.status_lt (s : State) : s.status.toNat < 2 ^ 8 := by
  have hb := s.busy.toNat_lt
  have hd := s.done.toNat_lt
  have hr := s.err.toNat_lt
  have he := s.ecode.isLt
  rw [State.status_toNat]
  omega

theorem State.done_eq_true {s : State} : s.done = true ↔ s.ph = Phase.fin.code := by simp [State.done]

theorem State.err_eq_true {s : State} : s.err = true ↔ s.ph = Phase.errh.code := by simp [State.err]

/-- The flags follow from the phase: IDLE, FIN, ERRH, or one of those in which the engine is busy. -/
theorem State.flags_cases (s : State) :
    (s.ph = 0x0#4 ∧ s.busy = false ∧ s.done = false ∧ s.err = false) ∨
    (s.ph = 0xC#4 ∧ s.busy = false ∧ s.done = true ∧ s.err = false) ∨
    (s.ph = 0xD#4 ∧ s.busy = false ∧ s.done = false ∧ s.err = true) ∨
    ((s.ph ≠ 0x0#4 ∧ s.ph ≠ 0xD#4) ∧ s.busy = true ∧ s.done = false ∧ s.err = false) := by
  unfold State.busy State.done State.err
  generalize s.ph = ph
  revert ph
  decide

/-- Settles O34: two flags would give `PH` two values, and the reserved bits are 0 by the layout of the word. -/
theorem statusFlagsExclude : Obligations.StatusFlagsExclude := by
  intro s
  refine ⟨fun ⟨hb, hd⟩ => ?_, fun ⟨hb, hr⟩ => ?_, fun ⟨hd, hr⟩ => ?_, ?_, s.status_getLsbD_three, s.status_lt⟩
  · exact (State.busy_eq_true.mp hb).2.1 (State.done_eq_true.mp hd)
  · exact (State.busy_eq_true.mp hb).2.2 (State.err_eq_true.mp hr)
  · exact absurd ((State.done_eq_true.mp hd).symm.trans (State.err_eq_true.mp hr)) (by decide)
  · rcases s.flags_cases with ⟨hph, hb, hd, hr⟩ | ⟨hph, hb, hd, hr⟩ | ⟨hph, hb, hd, hr⟩ | ⟨hph, hb, hd, hr⟩ <;>
      simp [hph, hb, hd, hr]

/-- Settles O35: the phase gives the flags, and under the invariant `ECODE` too. -/
theorem statusTakesOnlyLegalValues : Obligations.StatusTakesOnlyLegalValues := by
  intro s inv
  have hcode : if s.ph = 0xD#4 then s.ecode = 1#4 else s.ecode = 0#4 := inv.error
  have hstatus := s.status_toNat
  rcases s.flags_cases with ⟨hph, hb, hd, hr⟩ | ⟨hph, hb, hd, hr⟩ | ⟨hph, hb, hd, hr⟩ | ⟨⟨-, hph⟩, hb, hd, hr⟩ <;>
    simp [hph] at hcode <;> simp [hb, hd, hr, hcode] at hstatus
  · exact .inl (BitVec.eq_of_toNat_eq hstatus)
  · exact .inr (.inr (.inl (BitVec.eq_of_toNat_eq hstatus)))
  · exact .inr (.inr (.inr (BitVec.eq_of_toNat_eq hstatus)))
  · exact .inr (.inl (BitVec.eq_of_toNat_eq hstatus))

/-! ### The arithmetic of the length registers (R112, R149) -/

theorem paddedBits_mod (n : Nat) : paddedBits n % 512 = 0 := Nat.mul_mod_right 512 _

theorem paddedBits_lt (n : Nat) : paddedBits n < n + 65 + 512 := by
  unfold paddedBits
  omega

theorem blockCount_pos (len : Nat) : 0 < blockCount len := by
  unfold blockCount paddedBits
  omega

/-- PADL's result fits `PB`. -/
theorem toNat_ofNat_paddedBits (lb : BitVec 64) : (BitVec.ofNat 65 (paddedBits lb.toNat)).toNat = paddedBits lb.toNat := by
  have hlb := lb.isLt
  have hpad := paddedBits_lt lb.toNat
  rw [BitVec.toNat_ofNat, Nat.mod_eq_of_lt (by omega)]

/-- SEGC's quotient fits `NB`. -/
theorem toNat_extractLsb'_nine (pb : BitVec 65) : (pb.extractLsb' 9 56).toNat = pb.toNat / 512 := by
  have hpb := pb.isLt
  rw [BitVec.extractLsb'_toNat, Nat.shiftRight_eq_div_pow]
  omega

theorem nextBlockIndex_toNat {j : BitVec 56} (h : j.toNat + 1 < 2 ^ 56) : (nextBlockIndex j).toNat = j.toNat + 1 := by
  rw [nextBlockIndex, if_pos h, BitVec.toNat_add_of_lt (by simpa using h)]
  rfl

/-- An index below the last goes up by one. -/
theorem index_succ_toNat {x : BitVec 6} (h : x.toNat < 63) : (x + 1#6).toNat = x.toNat + 1 :=
  BitVec.toNat_add_of_lt (by simpa using Nat.succ_lt_succ h)

/-! ### The invariant (R25, R28, R29, R31, R110, R112, R171) -/

/-- Before a length is checked, and after an error, the invariant says nothing of the length registers. -/
theorem Inv.of_not_running {s : State} (legal : s.seqLegal)
    (error : if s.ph = Phase.errh.code then s.ecode = 1#4 else s.ecode = 0#4)
    (hidden : s.ph ≠ Phase.fin.code → s.dg = Vector.replicate 32 0#8) (memory : Memory.wf s.mem)
    (outside : ¬ s.phaseIn 0x2 0xC) : Inv s where
  legal := legal
  error := error
  hidden := hidden
  length := fun h => absurd h outside
  padded := fun h => absurd ⟨by omega, h.2⟩ outside
  count := fun h => absurd ⟨by omega, h.2⟩ outside
  index := fun h => absurd ⟨by omega, by omega⟩ outside
  ended := fun h => absurd ⟨by omega, h.2⟩ outside
  memory := memory

/-- Settles O38: in IDLE, with no error code, a zero digest and no byte of memory. -/
theorem resetMeetsTheInvariant : Obligations.ResetMeetsTheInvariant :=
  Inv.of_not_running (by decide) (by decide) (fun _ => rfl) Memory.reset_wf (by decide)

/-- Settles O37: the reset state evaluates to these values. -/
theorem resetStateValues : Obligations.ResetStateValues := by
  refine ⟨rfl, rfl, rfl, rfl, fun i hi => ?_, by decide⟩
  exact Vector.getElem_replicate hi

/-- The phase lies in a range when its code does. -/
theorem phaseIn_of_ph {s : State} {p : BitVec 4} {lo hi : Nat} (ph : s.ph = p)
    (hp : lo ≤ p.toNat ∧ p.toNat ≤ hi := by decide) : s.phaseIn lo hi := by
  rwa [State.phaseIn, ph]

section
variable {s t : State} (inv : Inv s)
include inv

/-! The moves of the host, the reset event and a turn taken off the agenda. -/

theorem Inv.consume : Inv s.consume :=
  ⟨inv.legal, inv.error, inv.hidden, inv.length, inv.padded, inv.count, inv.index, inv.ended, inv.memory⟩

theorem Inv.answer (x : Word) : Inv (s.answer x) :=
  ⟨inv.legal, inv.error, inv.hidden, inv.length, inv.padded, inv.count, inv.index, inv.ended, inv.memory⟩

theorem Inv.setLen (v : BitVec 64) : Inv (s.setLen v) :=
  ⟨inv.legal, inv.error, inv.hidden, inv.length, inv.padded, inv.count, inv.index, inv.ended, inv.memory⟩

theorem Inv.setMem {m : List Host.Cell} (hm : Memory.wf m) : Inv (s.setMem m) :=
  ⟨inv.legal, inv.error, inv.hidden, inv.length, inv.padded, inv.count, inv.index, inv.ended, hm⟩

theorem Inv.accept : Inv s.accept :=
  Inv.of_not_running (by simp [State.seqLegal, State.accept_frame, Phase.code]) (by simp [State.accept_frame, Phase.code])
    (fun _ => rfl) inv.memory (by simp [State.accept_frame, Phase.code])

theorem Inv.resetEvent : Inv s.resetEvent :=
  Inv.of_not_running (by simp [State.seqLegal, State.resetEvent, Phase.code]) (by simp [State.resetEvent, Phase.code])
    (fun _ => rfl) inv.memory (by simp [State.resetEvent, Phase.code])

theorem Inv.hostMove {i : Instr} (move : HostMove s i t) : Inv t := by
  cases move with
  | ignored => exact inv
  | answered _ x => exact inv.answer x
  | length _ _ v => exact inv.setLen v
  | accepted => exact inv.accept

/-! The moves of the sequencer. -/

/-- What is left to show when `SEQ` moves on in a busy state without an error: the clauses about the length registers, as far
as they speak of the phase of `t`. The defaults close the rest for a `t` written as a record. -/
theorem Inv.advance (hs : s.phaseIn 0x1 0xB)
    (length : t.phaseIn 0x2 0xC → t.lreg.toNat < 2 ^ 61 ∧ t.lb.toNat = 8 * t.lreg.toNat)
    (ht : t.phaseIn 0x2 0xC := by simp [State.phaseIn]) (legal : t.seqLegal := by simp [State.seqLegal, Phase.code])
    (ecode : t.ecode = s.ecode := by rfl) (mem : t.mem = s.mem := by rfl)
    (dg : t.ph ≠ Phase.fin.code → t.dg = s.dg := by intro; rfl)
    (padded : t.phaseIn 0x3 0xC → t.pb.toNat = paddedBits t.lb.toNat := by simp [State.phaseIn])
    (count : t.phaseIn 0x4 0xC → t.nb.toNat = blockCount t.lreg.toNat := by simp [State.phaseIn])
    (index : t.phaseIn 0x5 0xA → t.j.toNat < t.nb.toNat := by simp [State.phaseIn])
    (ended : t.phaseIn 0xB 0xC → t.j.toNat = t.nb.toNat := by simp [State.phaseIn]) : Inv t where
  legal := legal
  error := by
    have hs' : s.ph ≠ Phase.errh.code := fun h => by simp [State.phaseIn, h, Phase.code] at hs
    have ht' : t.ph ≠ Phase.errh.code := fun h => by simp [State.phaseIn, h, Phase.code] at ht
    simpa [hs', ht', ecode] using inv.error
  hidden h := by
    have hs' : s.ph ≠ Phase.fin.code := fun h => by simp [State.phaseIn, h, Phase.code] at hs
    rw [dg h, inv.hidden hs']
  length := length
  padded := padded
  count := count
  index := index
  ended := ended
  memory := mem ▸ inv.memory

/-- From LDB to FOLD a block is processed and only `SEQ`, `B`, `W` and `R` change. -/
theorem Inv.within_block {b : Block} {w : Schedule} {r : Eight} {p : BitVec 4} {x : BitVec 6} (hs : s.phaseIn 0x5 0xA)
    (hp : 0x5 ≤ p.toNat ∧ p.toNat ≤ 0xA) (legal : State.seqLegal { s with b := b, w := w, r := r, ph := p, t := x }) :
    Inv { s with b := b, w := w, r := r, ph := p, t := x } :=
  inv.advance ⟨by omega, by omega⟩ (ht := ⟨by simp only; omega, by simp only; omega⟩) (legal := legal)
    (length := fun _ => inv.length ⟨by omega, by omega⟩)
    (padded := fun _ => inv.padded ⟨by omega, by omega⟩)
    (count := fun _ => inv.count ⟨by omega, by omega⟩)
    (index := fun _ => inv.index hs)
    (ended := fun h => absurd h.1 (by simp only; omega))

theorem Inv.chk (ph : s.ph = 0x1#4) (small : s.lreg.toNat < 2 ^ 61) :
    Inv { s with lb := BitVec.ofNat 64 (s.lreg.toNat * 8), ph := 0x2#4, t := 0#6 } := by
  refine inv.advance (phaseIn_of_ph ph) fun _ => ⟨small, ?_⟩
  rw [BitVec.toNat_ofNat, Nat.mod_eq_of_lt (by omega), Nat.mul_comm]

theorem Inv.padl (ph : s.ph = 0x2#4) :
    Inv { s with pb := BitVec.ofNat 65 (paddedBits s.lb.toNat), ph := 0x3#4, t := 0#6 } :=
  inv.advance (phaseIn_of_ph ph) (length := fun _ => inv.length (phaseIn_of_ph ph))
    (padded := fun _ => toNat_ofNat_paddedBits s.lb)

/-- The check of SEGC always passes (R171), so its error entry is never taken. -/
theorem Inv.pb_mod (ph : s.ph = 0x3#4) : s.pb.toNat % 512 = 0 := by
  rw [inv.padded (phaseIn_of_ph ph), paddedBits_mod]

theorem Inv.segc (ph : s.ph = 0x3#4) : Inv { s with nb := s.pb.extractLsb' 9 56, ph := 0x4#4, t := 0#6 } := by
  obtain ⟨hlreg, hlb⟩ := inv.length (phaseIn_of_ph ph)
  have hpb := inv.padded (phaseIn_of_ph ph)
  refine inv.advance (phaseIn_of_ph ph) (length := fun _ => ⟨hlreg, hlb⟩) (padded := fun _ => hpb) (count := fun _ => ?_)
  rw [toNat_extractLsb'_nine, hpb, hlb, blockCount]

theorem Inv.init (ph : s.ph = 0x4#4) : Inv { s with h := initialHash, j := 0#56, ph := 0x5#4, t := 0#6 } := by
  have hnb := inv.count (phaseIn_of_ph ph)
  exact inv.advance (phaseIn_of_ph ph) (length := fun _ => inv.length (phaseIn_of_ph ph))
    (padded := fun _ => inv.padded (phaseIn_of_ph ph)) (count := fun _ => hnb)
    (index := fun _ => hnb ▸ blockCount_pos _)

/-- The fold of any block but the last keeps `J` below `NB`. -/
theorem Inv.fold (ph : s.ph = 0xA#4) (more : s.j.toNat + 1 ≠ s.nb.toNat) :
    Inv { s with h := foldInto s.h s.r, j := nextBlockIndex s.j, ph := 0x5#4, t := 0#6 } := by
  have hj := inv.index (phaseIn_of_ph ph)
  have hnb := s.nb.isLt
  have hnext : (nextBlockIndex s.j).toNat < s.nb.toNat := by
    rw [nextBlockIndex_toNat (by omega)]
    omega
  exact inv.advance (phaseIn_of_ph ph) (length := fun _ => inv.length (phaseIn_of_ph ph))
    (padded := fun _ => inv.padded (phaseIn_of_ph ph)) (count := fun _ => inv.count (phaseIn_of_ph ph))
    (index := fun _ => hnext)

/-- The fold of the last block brings `J` to `NB`. -/
theorem Inv.foldLast (ph : s.ph = 0xA#4) (last : s.j.toNat + 1 = s.nb.toNat) :
    Inv { s with h := foldInto s.h s.r, j := nextBlockIndex s.j, ph := 0xB#4, t := 0#6 } := by
  have hnb := s.nb.isLt
  have hnext : (nextBlockIndex s.j).toNat = s.nb.toNat := by rw [nextBlockIndex_toNat (by omega), last]
  exact inv.advance (phaseIn_of_ph ph) (length := fun _ => inv.length (phaseIn_of_ph ph))
    (padded := fun _ => inv.padded (phaseIn_of_ph ph)) (count := fun _ => inv.count (phaseIn_of_ph ph))
    (ended := fun _ => hnext)

/-- ASM publishes the digest, in the one phase in which it may be seen. -/
theorem Inv.asm (ph : s.ph = 0xB#4) : Inv { s with dg := assemble s.h, ph := 0xC#4, t := 0#6 } :=
  inv.advance (phaseIn_of_ph ph) (dg := fun h => absurd rfl h)
    (length := fun _ => inv.length (phaseIn_of_ph ph))
    (padded := fun _ => inv.padded (phaseIn_of_ph ph))
    (count := fun _ => inv.count (phaseIn_of_ph ph))
    (ended := fun _ => inv.ended (phaseIn_of_ph ph))

/-- An oversized length ends in ERRH with code 1 and a digest that is still zero. -/
theorem Inv.chkFail (ph : s.ph = 0x1#4) : Inv { s with ecode := 1#4, ph := 0xD#4, t := 0#6 } :=
  Inv.of_not_running (by simp [State.seqLegal, Phase.code]) (by simp [Phase.code])
    (fun _ => inv.hidden (by simp [ph, Phase.code])) inv.memory (by simp [State.phaseIn])

theorem Inv.microStep (move : MicroStep s t) : Inv t := by
  cases move with
  | idle | fin | errh => exact inv
  | chkFail ph => exact inv.chkFail ph
  | chk ph _ small => exact inv.chk ph small
  | padl ph => exact inv.padl ph
  | segcFail ph _ odd => exact absurd (inv.pb_mod ph) odd
  | segc ph => exact inv.segc ph
  | init ph => exact inv.init ph
  | ldb ph => exact inv.within_block (phaseIn_of_ph ph) (by decide) (by simp [State.seqLegal, Phase.code])
  | ldw ph lt =>
    have hx := index_succ_toNat (x := s.t) (by omega)
    exact inv.within_block (phaseIn_of_ph ph) (by decide) (.inl ⟨rfl, by simp only; omega⟩)
  | ldwLast ph => exact inv.within_block (phaseIn_of_ph ph) (by decide) (.inr (.inl ⟨rfl, by simp⟩))
  | exp ph ge lt =>
    have hx := index_succ_toNat lt
    exact inv.within_block (phaseIn_of_ph ph) (by decide) (.inr (.inl ⟨rfl, by simp only; omega⟩))
  | expLast ph | rndLast ph =>
    exact inv.within_block (phaseIn_of_ph ph) (by decide) (by simp [State.seqLegal, Phase.code])
  | ldr ph | rnd ph => exact inv.within_block (phaseIn_of_ph ph) (by decide) (.inr (.inr (.inl rfl)))
  | fold ph _ more => exact inv.fold ph more
  | foldLast ph _ last => exact inv.foldLast ph last
  | asm ph => exact inv.asm ph

end

/-- Settles O39: whatever the turn, what it does is one of the moves above. -/
theorem everyStepKeepsTheInvariant : Obligations.EveryStepKeepsTheInvariant := by
  intro s t inv h
  rcases step_cases h with ⟨hturn, -⟩ | ⟨a, -, i, hi, hexec⟩ | ⟨p, b, -, hp, -, rfl⟩ | ⟨p, -, -, rfl⟩ | ⟨-, rfl⟩
  · exact inv.consume.microStep (microStep_of_step hturn h)
  · exact inv.consume.hostMove (hostMove_of_exec (isHostOperation_of_decodeHost hi) hexec)
  · exact inv.consume.setMem (Memory.write_wf b inv.memory hp)
  · exact inv.consume.setMem (Memory.erase_wf p inv.memory)
  · exact inv.consume.resetEvent

/-! ### The constant tables (R34, R35) -/

/-- Below 18² a number is prime when no number from 2 to 17 but itself divides it. -/
theorem prime_iff_of_lt {p : Nat} (hp : p < 18 ^ 2) :
    p.Prime ↔ 2 ≤ p ∧ ∀ m < 18, 2 ≤ m → m ∣ p → m = p := by
  constructor
  · exact fun h => ⟨h.two_le, fun m _ hm hd => (h.eq_one_or_self_of_dvd m hd).resolve_left (by omega)⟩
  · rintro ⟨h2, h⟩
    refine Nat.prime_def_le_sqrt.mpr ⟨h2, fun m hm hsqrt hd => ?_⟩
    have hlt : m < 18 := hsqrt.trans_lt (Nat.sqrt_lt'.mpr hp)
    obtain rfl := h m hlt hm hd
    exact (Nat.sqrt_lt_self hm).not_ge hsqrt

/-- The table of R34 leaves out no prime up to 311 and lists nothing else: the sieve, number by number. -/
theorem mem_firstPrimes (p : Nat) : p ∈ firstPrimes ↔ p.Prime ∧ p ≤ 311 := by
  have sieve : ∀ p < 312, p ∈ firstPrimes ↔ 2 ≤ p ∧ ∀ m < 18, 2 ≤ m → m ∣ p → m = p := by decide +kernel
  have bound : ∀ p ∈ firstPrimes, p < 312 := by decide
  constructor
  · intro h
    have hp := bound p h
    exact ⟨(prime_iff_of_lt (by omega)).mpr ((sieve p hp).mp h), by omega⟩
  · rintro ⟨h, hp⟩
    exact (sieve p (by omega)).mpr ((prime_iff_of_lt (by omega)).mp h)

/-- With the whole part of the cube root of `p_t` put in front, `K[t]` is the root to 32 binary places (R34). -/
theorem roundConstants_cubeRoot : ∀ t (ht : t < 64), ∃ p ∈ firstPrimes, firstPrimes[t]? = some p ∧
    ∃ whole < 7, (whole * 2 ^ 32 + roundConstants[t].toNat) ^ 3 ≤ p * 2 ^ 96 ∧
      p * 2 ^ 96 < (whole * 2 ^ 32 + roundConstants[t].toNat + 1) ^ 3 := by
  decide +kernel

/-- With the whole part of the square root of `p_k` put in front, `IV[k]` is the root to 32 binary places (R35). -/
theorem initialHash_squareRoot : ∀ k (hk : k < 8), ∃ p ∈ firstPrimes, firstPrimes[k]? = some p ∧
    ∃ whole < 5, (whole * 2 ^ 32 + initialHash[k].toNat) ^ 2 ≤ p * 2 ^ 64 ∧
      p * 2 ^ 64 < (whole * 2 ^ 32 + initialHash[k].toNat + 1) ^ 2 := by
  decide +kernel

/-- Reduction modulo 2^32 takes off what was put in front of a word. -/
theorem toNat_eq_mod_of_front (x : Word) (whole : Nat) : x.toNat = (whole * 2 ^ 32 + x.toNat) % 2 ^ 32 := by
  have hx := x.isLt
  omega

/-- Settles O58: the list by the sieve, each entry of a table by the bounds on its root. -/
theorem constantTablesAreTheRoots : Obligations.ConstantTablesAreTheRoots := by
  refine ⟨⟨rfl, by decide, mem_firstPrimes⟩, fun t ht => ?_, fun k hk => ?_⟩
  · obtain ⟨p, -, hp, whole, -, hlow, hhigh⟩ := roundConstants_cubeRoot t ht
    exact ⟨p, _, hp, hlow, hhigh, toNat_eq_mod_of_front _ whole⟩
  · obtain ⟨p, -, hp, whole, -, hlow, hhigh⟩ := initialHash_squareRoot k hk
    exact ⟨p, _, hp, hlow, hhigh, toNat_eq_mod_of_front _ whole⟩

end Sys2Proof.Machine
end

section
/-! The message memory (20_memory.md): when LDB stops (R52, R56), what no operation changes (R58), and the host's own
changes (R52, R64, R192, R199). -/

namespace Sys2Proof.Machine

/-! ### Where LDB stops (R52, R56, R119) -/

/-- `memRead` stops outside the M-space and at an offset that holds no byte, each by its own name. -/
theorem memRead_error {m : List Host.Cell} {p : Nat} (h : 2 ^ 61 ≤ p ∨ Memory.read m p = none) :
    memRead m p = .error (if 2 ^ 61 ≤ p then .outsideMSpace else .messageByteUnanswered) := by
  unfold memRead
  by_cases hp : 2 ^ 61 ≤ p
  · rw [if_pos hp, if_neg (show ¬ p < mspaceSize from Nat.not_lt.mpr hp)]
  · rw [if_neg hp, if_pos (show p < mspaceSize from Nat.lt_of_not_le hp), h.resolve_left hp]

/-- A missing message byte stops the loading of its place in the block. -/
theorem blockByte_of_missesByte {s : State} {k : Nat} (h : missesByte s k) :
    blockByte s k = .error (if 2 ^ 61 ≤ 64 * s.j.toNat + k then .outsideMSpace else .messageByteUnanswered) := by
  obtain ⟨hlreg, hmiss⟩ := h
  rw [blockByte, if_pos hlreg, memRead_error hmiss]

/-- Any other place in the block gets its byte: one read, or one of the padding. -/
theorem blockByte_of_not_missesByte {s : State} {k : Nat} (h : ¬ missesByte s k) : ∃ b, blockByte s k = .ok b := by
  unfold blockByte
  by_cases hlreg : 64 * s.j.toNat + k < s.lreg.toNat
  · have hpresent := not_or.mp fun hmiss => h ⟨hlreg, hmiss⟩
    obtain ⟨b, hb⟩ := Option.ne_none_iff_exists'.mp hpresent.2
    exact ⟨b, by rw [if_pos hlreg, memRead_ok.mpr ⟨Nat.lt_of_not_le hpresent.1, hb⟩]⟩
  · simp only [if_neg hlreg]
    split_ifs <;> exact ⟨_, rfl⟩

/-- `collect` ends in the fault of the first byte that is not given. -/
theorem collect_of_first_error {f : Nat → Except Fault Byte} {n k : Nat} {e : Fault} (hk : k < n) (he : f k = .error e)
    (before : ∀ i, i < k → ∃ b, f i = .ok b) : collect f n = .error e := by
  cases hc : collect f n with
  | ok v => cases he.symm.trans (collect_ok.mp hc k hk)
  | error e' =>
    obtain ⟨i, -, hi, hbefore⟩ := collect_error hc
    rcases Nat.lt_trichotomy i k with hlt | rfl | hgt
    · obtain ⟨b, hb⟩ := before i hlt
      cases hi.symm.trans hb
    · cases hi.symm.trans he
      rfl
    · obtain ⟨b, hb⟩ := hbefore k hgt
      cases he.symm.trans hb

/-- Settles O23: LDB goes on exactly when `collect` is given every byte, and otherwise ends in the first fault. -/
theorem ldbStopsOnlyOnAMissingByte : Obligations.LdbStopsOnlyOnAMissingByte := by
  intro s
  refine ⟨⟨fun stops => ?_, fun ⟨k, hk, hmiss⟩ t hnext => ?_⟩, fun k hk hmiss first => ?_⟩
  · cases hc : collect (blockByte s) 64 with
    | ok v => exact absurd (execLdb_ok hc) (stops _)
    | error e =>
      obtain ⟨k, hk, hfault, -⟩ := collect_error hc
      refine ⟨k, hk, by_contra fun hpresent => ?_⟩
      obtain ⟨b, hb⟩ := blockByte_of_not_missesByte hpresent
      cases hfault.symm.trans hb
  · obtain ⟨v, hv, -⟩ := execLdb_next hnext
    cases (blockByte_of_missesByte hmiss).symm.trans (hv k hk)
  · exact execLdb_error (collect_of_first_error hk (blockByte_of_missesByte hmiss)
      fun i hi => blockByte_of_not_missesByte (first i hi))

/-! ### What no operation changes (R58) -/

/-- The M-space is in no row of the access matrix. -/
theorem MatrixRow.mem_eq {s t : State} {i : Instr} (row : MatrixRow s i t) : t.mem = s.mem := by
  cases row with
  | host move => cases move <;> rfl
  | halt | chk | padl | segc | init | ldb | ldw | exp | ldr | rnd | fold | asm => rfl

/-- Settles O33: the whole M-space stays, so every byte of it does. -/
theorem noOperationWritesMemory : Obligations.NoOperationWritesMemory := by
  intro i s t p h
  rw [(matrixRow_of_exec h).mem_eq]

/-! ### The host's changes of the memory (R52, R64, R192, R199) -/

/-- The offsets the host may change (R199). -/
theorem State.holdsMessageByte_eq_false {s : State} {p : Nat} :
    s.holdsMessageByte p = false ↔ ¬ (s.busy = true ∧ p < s.lreg.toNat) := by
  simp [State.holdsMessageByte]

theorem step_place {s : State} {p : Nat} {b : Byte} (turn : s.turn = .place p b) (hp : p < mspaceSize)
    (may : s.holdsMessageByte p = false) : step s = .next (s.consume.setMem (Memory.write s.mem p b)) := by
  simp only [step, turn, hostPlace, if_neg (Nat.not_le.mpr hp), State.consume_holdsMessageByte, may]
  rfl

theorem step_free {s : State} {p : Nat} (turn : s.turn = .free p) (may : s.holdsMessageByte p = false) :
    step s = .next (s.consume.setMem (Memory.erase s.mem p)) := by
  simp only [step, turn, hostFree, State.consume_holdsMessageByte, may]
  rfl

/-- Settles O40: each turn completes, and what is read afterwards is what the laws of the M-space say. -/
theorem hostPlacesAndFreesBytes : Obligations.HostPlacesAndFreesBytes := by
  refine ⟨fun s p b turn hp may => ?_, fun s p wf turn may => ?_⟩
  · exact ⟨_, step_place turn hp (State.holdsMessageByte_eq_false.mpr may), rfl, Memory.read_write_same s.mem p b,
      fun q hq => Memory.read_write_other s.mem b hq⟩
  · exact ⟨_, step_free turn (State.holdsMessageByte_eq_false.mpr may), rfl, Memory.read_erase_same s.mem p wf,
      fun q hq => Memory.read_erase_other s.mem hq⟩

end Sys2Proof.Machine
end

section
/-! Encoding and decoding (30_encoding.md R70 to R80): that they are inverse, what is refused, and where `SEQ` goes (R78). -/

namespace Sys2Proof.Machine

/-! ### The fields of `SEQ` (R73) -/

theorem decode_seqWord (ph : BitVec 4) (t : BitVec 6) : decode (.seq (seqWord ph t)) = decodeSeq ph t := by
  rw [decode, seqWord, BitVec.extractLsb'_append_eq_left, BitVec.extractLsb'_append_eq_right]

theorem seqWord_extractLsb' (q : BitVec 10) : seqWord (q.extractLsb' 6 4) (q.extractLsb' 0 6) = q :=
  BitVec.extractLsb'_append_extractLsb' (w := 4) (len := 6)

/-! ### Encoding, then decoding -/

/-- The index range of a well-formed LDW or EXP is the one its decoder asks for; the other rows have no condition, and the
decoder's table evaluates to them whatever the data word. -/
theorem decode_encode {i : Instr} (wf : i.wellFormed = true) : decode (encode i) = .ok i := by
  cases i
  case ldwT t => exact (decode_seqWord _ t).trans (if_pos (of_decide_eq_true wf))
  case expT t => exact (decode_seqWord _ t).trans (if_pos (of_decide_eq_true wf))
  case rndT t => exact decode_seqWord _ t
  all_goals rfl

/-! ### Decoding, then encoding (R79) -/

/-- The encoding of a decoded access has its selector, and its data word if bit 6, `we`, is set (R71). -/
theorem encode_of_decodeAccess {sel : BitVec 7} {v : Word} {i : Instr} (h : decodeAccess sel v = .ok i) :
    i.wellFormed = true ∧ encode i = .access sel (if sel.getLsbD 6 then v else 0#32) := by
  unfold decodeAccess at h
  split at h
  case h_25 => split at h <;> cases h
  all_goals
    cases h
    exact ⟨rfl, rfl⟩

theorem decodeCommand_ok_iff {w : Word} {i : Instr} : decodeCommand w = .ok i ↔ w = 0x00000001#32 ∧ i = .digest := by
  unfold decodeCommand
  split <;> simp [*, eq_comm]

theorem encode_of_decodeSeq {ph : BitVec 4} {t : BitVec 6} {i : Instr} (h : decodeSeq ph t = .ok i) :
    i.wellFormed = true ∧ encode i = .seq (seqWord ph t) := by
  have fields := seqOf_decodeSeq h
  cases i <;> simp only [seqOf, decide_eq_true_eq, Bool.false_eq_true] at fields
  case ldwT | expT =>
    obtain ⟨rfl, rfl, range⟩ := fields
    exact ⟨decide_eq_true range, rfl⟩
  all_goals
    obtain ⟨rfl, rfl⟩ := fields
    exact ⟨rfl, rfl⟩

/-! ### What is refused (R80) -/

theorem exists_error_iff {α : Type} {x : Except Reject α} : (∃ why, x = .error why) ↔ ¬ ∃ a, x = .ok a := by
  cases x <;> simp

/-- A decoded selector has its offset in one of the twelve register slots. -/
theorem offset_of_decodeAccess {sel : BitVec 7} {v : Word} {i : Instr} (h : decodeAccess sel v = .ok i) :
    (sel.extractLsb' 0 6).toNat % 4 = 0 ∧ (sel.extractLsb' 0 6).toNat < 0x30 := by
  unfold decodeAccess at h
  split at h
  case h_25 => split at h <;> cases h
  all_goals decide

theorem decodeAccess_slot (we : Bool) (k : Fin 12) (v : Word) :
    ∃ i, decodeAccess (selectorOf we (4 * k.val)) v = .ok i := by
  fin_cases k <;> cases we <;> exact ⟨_, rfl⟩

theorem decodeAccess_ok_iff {we : Bool} {off : Nat} {v : Word} (hoff : off < 64) :
    (∃ i, decodeAccess (selectorOf we off) v = .ok i) ↔ off % 4 = 0 ∧ off < 0x30 := by
  constructor
  · rintro ⟨i, h⟩
    have hslot := offset_of_decodeAccess h
    rwa [selectorOf, BitVec.extractLsb'_append_eq_right, BitVec.toNat_ofNat, Nat.mod_eq_of_lt hoff] at hslot
  · rintro ⟨aligned, hslot⟩
    obtain ⟨k, rfl⟩ := Nat.dvd_of_mod_eq_zero aligned
    exact decodeAccess_slot we ⟨k, by omega⟩ v

theorem decodeHost_ok_iff {a : Access} :
    (∃ i, decodeHost a = .ok i) ↔ a.bits = 32 ∧ a.off % 4 = 0 ∧ a.off < 0x30 := by
  unfold decodeHost
  split_ifs with hbits hoff
  · simp [hbits]
  · have outside : ¬ a.off < 0x30 := by omega
    simp [outside]
  · rw [decode, decodeAccess_ok_iff (Nat.lt_of_not_le hoff)]
    simp [Classical.not_not.mp hbits]

theorem withoutIndex_error_iff {t : BitVec 6} {i : Instr} : (∃ why, withoutIndex t i = .error why) ↔ t ≠ 0#6 := by
  unfold withoutIndex
  split <;> simp [*]

theorem decodeSeq_error_iff {ph : BitVec 4} {t : BitVec 6} : (∃ why, decodeSeq ph t = .error why) ↔
    0xE ≤ ph.toNat ∨ (ph = 0x6#4 ∧ 16 ≤ t.toNat) ∨ (ph = 0x7#4 ∧ t.toNat < 16) ∨
      (ph ≠ 0x6#4 ∧ ph ≠ 0x7#4 ∧ ph ≠ 0x9#4 ∧ t ≠ 0#6) := by
  unfold decodeSeq
  split
  case h_7 | h_8 => split <;> simp <;> omega
  case h_10 => simp
  case h_15 =>
    have reserved : 0xE ≤ ph.toNat := by
      revert ph
      decide
    simp [reserved]
  all_goals simp [withoutIndex_error_iff]

/-! ### The obligations -/

/-- Settles O1, operation by operation. -/
theorem encodeThenDecodeIsIdentity : Obligations.EncodeThenDecodeIsIdentity :=
  fun _ wf => decode_encode wf

/-- Settles O2: each decoder names the encoding it came from, and only a read lets the data word go. -/
theorem decodedWordIsItsEncoding : Obligations.DecodedWordIsItsEncoding := by
  intro e i h
  cases e with
  | access sel v =>
    obtain ⟨wf, henc⟩ := encode_of_decodeAccess h
    refine ⟨wf, ?_⟩
    cases hwe : sel.getLsbD 6 with rw [hwe] at henc
    | true => exact .inl henc
    | false => exact .inr ⟨sel, v, rfl, hwe, henc⟩
  | command w =>
    obtain ⟨rfl, rfl⟩ := decodeCommand_ok_iff.mp h
    exact ⟨rfl, .inl rfl⟩
  | seq q =>
    obtain ⟨wf, henc⟩ := encode_of_decodeSeq h
    exact ⟨wf, .inl (by rw [henc, seqWord_extractLsb'])⟩

/-- Settles O3: the accesses and the command word by what is accepted, `SEQ` by what is refused. -/
theorem exactlyReservedEncodingsRefused : Obligations.ExactlyReservedEncodingsRefused := by
  refine ⟨fun a => ?_, fun c => ?_, fun ph t => ?_⟩
  · rw [exists_error_iff, decodeHost_ok_iff]
    omega
  · simp [exists_error_iff, decodeCommand_ok_iff]
  · rw [decode_seqWord, decodeSeq_error_iff]

/-- Settles O31, row by row: the table reads no register that taking the turn off the agenda changes. -/
theorem nextStateTable : Obligations.NextStateTable := by
  intro s t hturn h
  have move := microStep_of_step hturn h
  rw [← s.consume_ph, ← s.consume_t, ← s.consume_lreg, ← s.consume_pb, ← s.consume_j, ← s.consume_nb]
  generalize s.consume = u at move
  cases move with
  | idle ph | fin ph | errh ph | padl ph | init ph | ldb ph | ldr ph | asm ph => simp [ph]
  | segc ph _ cond | segcFail ph _ cond | ldwLast ph cond | expLast ph cond | rndLast ph cond | fold ph _ cond
  | foldLast ph _ cond => simp [ph, cond]
  | chk ph _ cond | chkFail ph _ cond => simpa [ph] using cond
  | ldw ph lt => simp [ph, lt, index_succ_toNat (x := u.t) (by omega)]
  | exp ph _ lt | rnd ph lt => simp [ph, lt, index_succ_toNat lt]

/-- Settles O4: the tables of the decoder evaluate to these operations. -/
theorem sampleWordsDecode : Obligations.SampleWordsDecode :=
  ⟨fun _ => rfl, fun _ => rfl, fun _ => rfl, rfl, rfl, rfl, rfl, rfl, rfl, rfl⟩

/-- Settles O17: each of the three arms is `halt`. -/
theorem haltPhasesKeepTheState : Obligations.HaltPhasesKeepTheState :=
  fun _ => ⟨rfl, rfl, rfl⟩

end Sys2Proof.Machine
end

section
/-! The host's accesses and the command, one by one (40_host_interface.md R91 to R100, R102). -/

namespace Sys2Proof.Machine

/-! ### Accesses that are refused (R102) -/

theorem step_host_refused {s : State} {a : Access} {why : Reject} (turn : s.turn = .host a)
    (h : decodeHost a = .error why) : step s = .refused (.reserved why) := by
  simp only [step, turn, h, run]

/-- An access as wide as a register, inside the window, is its selector (R71). -/
theorem decodeHost_window (we : Bool) {off : Nat} (v : Word) (h : off < 64) :
    decodeHost ⟨we, 32, off, v⟩ = decodeAccess (selectorOf we off) v := by
  rw [decodeHost, if_neg (by simp), if_neg (Nat.not_le.mpr h), decode]

theorem decodeAccess_reservedSlot (we : Bool) {off : Nat} (v : Word)
    (h : off = 0x30 ∨ off = 0x34 ∨ off = 0x38 ∨ off = 0x3C) :
    decodeAccess (selectorOf we off) v = .error .reservedSlot := by
  rcases h with rfl | rfl | rfl | rfl <;> cases we <;> rfl

/-- Offset 0x00 is `CMD` (R75). -/
theorem decodeHost_cmd (v : Word) : decodeHost ⟨true, 32, 0x00, v⟩ = .ok (.wrCmd v) :=
  decodeHost_window true v (by decide)

theorem exec_wrCmd_reserved {v : Word} (h : v ≠ 0x00000001#32) (s : State) :
    exec (.wrCmd v) s = .refused (.reserved .reservedCommand) := by
  simp only [exec, execWrCmd, decodeCommand, if_neg h]

/-- Settles O6: a reserved slot is refused by the decoder, a reserved command word by the write that decodes to WR CMD. -/
theorem reservedSlotsAndCommandsRefused : Obligations.ReservedSlotsAndCommandsRefused := by
  refine ⟨fun s we off v hoff turn => step_host_refused turn ?_, fun s v hv => ⟨exec_wrCmd_reserved hv s, fun turn => ?_⟩⟩
  · rw [decodeHost_window we v (by omega), decodeAccess_reservedSlot we v hoff]
  · rw [step_host turn (decodeHost_cmd v), exec_wrCmd_reserved hv]

/-! ### The length registers (R91 to R94) -/

/-- Two words as one number: the first is the high half. -/
theorem append_word_toNat (x y : Word) : (x ++ y : BitVec 64).toNat = x.toNat * 2 ^ 32 + y.toNat := by
  rw [BitVec.toNat_append, ← Nat.shiftLeft_add_eq_or_of_lt y.isLt, Nat.shiftLeft_eq]

theorem lowHalf_toNat (x : BitVec 64) : (x.extractLsb' 0 32).toNat = x.toNat % 2 ^ 32 := by
  rw [BitVec.extractLsb'_toNat, Nat.shiftRight_zero]

theorem highHalf_toNat (x : BitVec 64) : (x.extractLsb' 32 32).toNat = x.toNat / 2 ^ 32 := by
  have hx := x.isLt
  rw [BitVec.extractLsb'_toNat, Nat.shiftRight_eq_div_pow]
  omega

/-- Settles O7: the old high half is put in front of the word written. -/
theorem writeLenLo : Obligations.WriteLenLo := by
  refine ⟨fun _ => rfl, fun s v => ⟨fun rest => ⟨_, writeLen_idle rest, ?_, rfl⟩, fun busy => writeLen_busy busy⟩⟩
  rw [State.setLen_len, withLowHalf, append_word_toNat, highHalf_toNat]

/-- Settles O8: the word written is put in front of the old low half. -/
theorem writeLenHi : Obligations.WriteLenHi := by
  refine ⟨fun _ => rfl, fun s v => ⟨fun rest => ⟨_, writeLen_idle rest, ?_, rfl⟩, fun busy => writeLen_busy busy⟩⟩
  rw [State.setLen_len, withHighHalf, append_word_toNat, lowHalf_toNat]

/-- Settles O9: each read hands back a half of `LEN`, whatever the phase. -/
theorem readLenHalves : Obligations.ReadLenHalves :=
  ⟨fun _ => ⟨rfl, rfl⟩, fun s => ⟨⟨_, lowHalf_toNat s.len, rfl⟩, ⟨_, highHalf_toNat s.len, rfl⟩⟩⟩

/-! ### The other registers (R95, R98 to R100) -/

/-- Settles O10: the arm of RD CMD hands back the constant zero. -/
theorem readCmdReturnsZero : Obligations.ReadCmdReturnsZero :=
  ⟨fun _ => rfl, fun _ => rfl⟩

/-- Settles O11: the fields of `STATUS` at their places, for each kind of phase. -/
theorem readStatusReturnsTheFlags : Obligations.ReadStatusReturnsTheFlags := by
  refine ⟨fun _ => rfl, fun s => ⟨s.status, rfl, ?_⟩⟩
  rw [s.status_toNat]
  rcases s.flags_cases with ⟨hph, hb, hd, hr⟩ | ⟨hph, hb, hd, hr⟩ | ⟨hph, hb, hd, hr⟩ | ⟨⟨hidle, herrh⟩, hb, hd, hr⟩
  · simp [hph, hb, hd, hr]
  · simp [hph, hb, hd, hr]
  · simp [hph, hb, hd, hr]
  · have hfin : s.ph ≠ 0xC#4 := (State.busy_eq_true.mp hb).2.1
    simp [hidle, hfin, herrh, hb, hd, hr]

theorem exec_digestRead (k : Fin 8) (s : State) : exec (digestRead k) s = .next (s.answer (digestWord s.dg k)) := by
  fin_cases k <;> rfl

theorem decode_digestRead (k : Fin 8) (v : Word) :
    decode (.access (selectorOf false (0x10 + 4 * k.val)) v) = .ok (digestRead k) := by
  fin_cases k <;> rfl

/-- Settles O12: the word is assembled from the four digest bytes. -/
theorem readDigestReturnsItsBytes : Obligations.ReadDigestReturnsItsBytes :=
  fun k v => ⟨decode_digestRead k v, fun s => ⟨digestWord s.dg k, exec_digestRead k s, be32_toNat _ _ _ _⟩⟩

theorem exec_digestWrite (v : Word) (k : Fin 8) (s : State) : exec (digestWrite v k) s = .next s := by
  fin_cases k <;> rfl

theorem decode_digestWrite (v : Word) (k : Fin 8) :
    decode (.access (selectorOf true (0x10 + 4 * k.val)) v) = .ok (digestWrite v k) := by
  fin_cases k <;> rfl

/-- Settles O13: each of the nine arms leaves the state as it is. -/
theorem readOnlyRegistersIgnoreWrites : Obligations.ReadOnlyRegistersIgnoreWrites :=
  fun v => ⟨rfl, decode_digestWrite v, fun s => ⟨rfl, fun k => exec_digestWrite v k s⟩⟩

/-! ### The command (R96, R97) -/

theorem State.accept_status (s : State) : s.accept.status = 0x00000001#32 := by
  refine BitVec.eq_of_toNat_eq ?_
  rw [State.status_toNat]
  simp [State.accept_frame, State.busy, State.done, State.err, Phase.code]

/-- Settles O14: outside the busy phases either decoder's operation is acceptance. -/
theorem digestCommandAccepted : Obligations.DigestCommandAccepted := by
  refine ⟨rfl, rfl, fun s hph => ?_⟩
  have accepted := digestCommand_idle (State.busy_eq_false.mpr hph)
  exact ⟨s.accept, accepted, accepted, rfl, fun _ hi => Vector.getElem_replicate hi, s.accept_status⟩

/-- Settles O15: while busy either decoder's operation keeps the state. -/
theorem digestCommandIgnoredWhileBusy : Obligations.DigestCommandIgnoredWhileBusy :=
  fun _ busy => ⟨digestCommand_busy busy, digestCommand_busy busy⟩

end Sys2Proof.Machine
end

section
/-! The digest by blocks (41_padder.md R111 to R114, 44_digest_assembler.md R161): the padded bits are the padded bytes, so
`Digest(m)` is what the engine computes block by block. -/

namespace Sys2Proof.Machine

/-! ### Padded bits and padded bytes (R111, R113) -/

theorem paddedBits_eq (len : Nat) : paddedBits (8 * len) = 512 * blockCount len := by
  rw [blockCount, paddedBits, Nat.mul_div_cancel_left _ (by decide)]

/-- The message, the byte 0x80 and the eight bytes of the length fit in `N` blocks (R112). -/
theorem length_add_nine_le (len : Nat) : len + 9 ≤ 64 * blockCount len := by
  rw [blockCount, paddedBits]
  omega

theorem byteBe64_getLsbD (v : BitVec 64) {i q : Nat} (hi : i < 8) (hq : q < 8) :
    (byteBe64 v i).getLsbD (7 - q) = v.getLsbD (63 - (8 * i + q)) := by
  have hbit : 56 - 8 * i + (7 - q) = 63 - (8 * i + q) := by omega
  rw [byteBe64, if_pos hi, BitVec.getLsbD_extractLsb', hbit]
  simp [show 7 - q < 8 by omega]

/-- Of the byte 0x80 only the first bit is set. -/
theorem getLsbD_0x80 {q : Nat} (hq : q < 8) : (0x80#8).getLsbD (7 - q) = decide (q = 0) := by
  revert q
  decide

/-- The padded bits, eight at a time and the first most significant, are the padded bytes: range by range of R111. -/
theorem paddedBit_eq_padByte (m : List Byte) {p q : Nat} (hp : p < 64 * blockCount m.length) (hq : q < 8) :
    paddedBit m (8 * p + q) = (padByte m p).getLsbD (7 - q) := by
  have hroom := length_add_nine_le m.length
  unfold paddedBit padByte
  rw [paddedBits_eq]
  rcases Nat.lt_trichotomy p m.length with hlt | rfl | hgt
  · rw [if_pos (by omega), if_pos hlt, messageBit, show (8 * p + q) / 8 = p by omega, show (8 * p + q) % 8 = q by omega]
  · rw [if_neg (Nat.lt_irrefl _), if_pos rfl, getLsbD_0x80 hq, if_neg (by omega)]
    by_cases hfirst : q = 0
    · rw [if_pos (by omega), decide_eq_true hfirst]
    · rw [if_neg (by omega), if_pos (by omega), decide_eq_false hfirst]
  · rw [if_neg (Nat.lt_asymm hgt), if_neg (Nat.ne_of_gt hgt), if_neg (by omega), if_neg (by omega)]
    by_cases hzero : p + 8 < 64 * blockCount m.length
    · rw [if_pos hzero, BitVec.getLsbD_zero, if_pos (by omega)]
    · rw [if_neg hzero, byteBe64_getLsbD _ (by omega) hq, if_neg (by omega)]
      congr 2
      omega

/-! ### Segmentation (R55, R114) -/

/-- Bits pushed in at the low end one after the other: the one pushed `i` before the last is bit `i`. -/
theorem foldl_shiftConcat_getLsbD {w : Nat} (bit : Nat → Bool) {n i : Nat} (hi : i < n) (hw : i < w) :
    ((List.range n).foldl (fun (acc : BitVec w) k => acc.shiftConcat (bit k)) 0#w).getLsbD i = bit (n - 1 - i) := by
  induction n generalizing i with
  | zero => omega
  | succ n ih =>
    rw [List.range_succ, List.foldl_concat, BitVec.getLsbD_shiftConcat]
    cases i with
    | zero => simp [hw]
    | succ i =>
      rw [if_neg (Nat.succ_ne_zero i), decide_eq_true hw, Bool.true_and, Nat.add_sub_cancel, ih (by omega) (by omega)]
      congr 1
      omega

/-- The byte of eight bits has the first of them as its most significant. -/
theorem byteOfBits_getLsbD (l : List Bool) (i : Nat) {q : Nat} (hq : q < 8) :
    (byteOfBits l i).getLsbD (7 - q) = l.getD (i + q) false := by
  rw [byteOfBits, foldl_shiftConcat_getLsbD (fun k => l.getD (i + k) false) (by omega) (by omega),
    show 8 - 1 - (7 - q) = q by omega]

theorem padBits_getD (m : List Byte) {i : Nat} (hi : i < paddedBits (8 * m.length)) :
    (padBits m).getD i false = paddedBit m i := by
  simp [padBits, List.getD_eq_getElem?_getD, hi]

theorem byteOfBits_padBits (m : List Byte) {p : Nat} (hp : p < 64 * blockCount m.length) :
    byteOfBits (padBits m) (8 * p) = padByte m p := by
  refine BitVec.eq_of_getLsbD_eq fun i hi => ?_
  obtain ⟨q, hq, rfl⟩ : ∃ q < 8, i = 7 - q := ⟨7 - i, by omega, by omega⟩
  rw [byteOfBits_getLsbD _ _ hq, padBits_getD _ (by rw [paddedBits_eq]; omega), paddedBit_eq_padByte m hp hq]

theorem blockOfBits_padBits (m : List Byte) {j : Nat} (hj : j < blockCount m.length) :
    blockOfBits (padBits m) j = blockOf m j := by
  ext k hk
  rw [blockOfBits, blockOf, Vector.getElem_ofFn, Vector.getElem_ofFn,
    show 512 * j + 8 * k = 8 * (64 * j + k) by omega, byteOfBits_padBits m (by omega)]

theorem segment_padBits (m : List Byte) :
    segment (padBits m) = .ok ((List.range (blockCount m.length)).map (blockOf m)) := by
  have hlen : (padBits m).length = 512 * blockCount m.length := by simp [padBits, paddedBits_eq]
  rw [segment, hlen, if_neg (by simp), Nat.mul_div_cancel_left _ (by decide)]
  refine congrArg Except.ok (List.map_congr_left fun j hj => ?_)
  exact blockOfBits_padBits m (List.mem_range.mp hj)

/-- The digest is assembled from the Hash State after the last block (R161). -/
theorem digestOf_eq {m : List Byte} (short : m.length < 2 ^ 61) :
    digestOf m = .ok (assemble (hashAfter m (blockCount m.length))) := by
  rw [digestOf, if_neg (Nat.not_le.mpr short), segment_padBits]
  rfl

end Sys2Proof.Machine
end

section
/-! A computation of a digest (40_host_interface.md R96, R101): what each move of the machine keeps of it. -/

namespace Sys2Proof.Machine

/-! ### The schedule, entry by entry (R132 to R134) -/

theorem expand_getElem_of_lt (b : Block) {n : Nat} (h : n < 16) : (expand b)[n] = blockWord b ⟨n, h⟩ := by
  rw [expand_getElem b n (by omega), scheduleEntry, dif_pos h]

theorem expand_getElem_of_ge (b : Block) {n : Nat} (h : 16 ≤ n) (hn : n < 64) :
    (expand b)[n] = recurrence (expand b)[n - 16] (expand b)[n - 15] (expand b)[n - 7] (expand b)[n - 2] := by
  rw [expand_getElem b n hn, scheduleEntry, dif_neg (by omega)]
  simp only [expand, expandTo_getElem]

/-- With the entries before `t` in place, EXP computes entry `t` (R134). -/
theorem recurrence_eq_expand {b : Block} {w : Schedule} {t : BitVec 6} (ge : 16 ≤ t.toNat)
    (before : ∀ i (hi : i < 64), i < t.toNat → w[i] = (expand b)[i]) :
    recurrence (at64 w (t - 16#6)) (at64 w (t - 15#6)) (at64 w (t - 7#6)) (at64 w (t - 2#6)) =
      (expand b)[t.toNat]'t.isLt := by
  have ht := t.isLt
  have back : ∀ k : BitVec 6, 1 ≤ k.toNat → k.toNat ≤ 16 → at64 w (t - k) = (expand b)[t.toNat - k.toNat] :=
    fun k h1 h16 => by rw [at64_sub w t k (by omega), before _ _ (by omega)]
  rw [expand_getElem_of_ge b ge ht, back 16#6 (by decide) (by decide), back 15#6 (by decide) (by decide),
    back 7#6 (by decide) (by decide), back 2#6 (by decide) (by decide)]
  rfl

/-- Writing entry `n` makes the filled part of the schedule one entry longer. -/
theorem set_eq_expand {b : Block} {w : Schedule} {n : Nat} (hn : n < 64) {v : Word} (hv : v = (expand b)[n])
    (before : ∀ i (hi : i < 64), i < n → w[i] = (expand b)[i]) (i : Nat) (hi : i < 64) (hin : i < n + 1) :
    (w.set n v hn)[i] = (expand b)[i] := by
  rw [Vector.getElem_set]
  split
  · subst n
    exact hv
  · exact before i hi (by omega)

/-! ### What the host and the turns keep -/

section
variable {m : List Byte} {s t : State} (c : Computes m s)
include c

theorem Computes.consume : Computes m s.consume :=
  ⟨c.legal, c.live, c.noError, c.short, c.latched, c.message, c.bits, c.padded, c.count, c.index, c.ended, c.hash,
    c.block, c.prefixed, c.schedule, c.round, c.rounded, c.digest⟩

theorem Computes.answer (x : Word) : Computes m (s.answer x) :=
  ⟨c.legal, c.live, c.noError, c.short, c.latched, c.message, c.bits, c.padded, c.count, c.index, c.ended, c.hash,
    c.block, c.prefixed, c.schedule, c.round, c.rounded, c.digest⟩

theorem Computes.setLen (v : BitVec 64) : Computes m (s.setLen v) :=
  ⟨c.legal, c.live, c.noError, c.short, c.latched, c.message, c.bits, c.padded, c.count, c.index, c.ended, c.hash,
    c.block, c.prefixed, c.schedule, c.round, c.rounded, c.digest⟩

/-- A memory with the same message bytes, as far as the computation still reads them. -/
theorem Computes.setMem {mem : List Host.Cell}
    (same : s.busy = true → ∀ p, p < m.length → Memory.read mem p = Memory.read s.mem p) : Computes m (s.setMem mem) :=
  ⟨c.legal, c.live, c.noError, c.short, c.latched, fun busy p hp => (same busy p hp).trans (c.message busy p hp), c.bits,
    c.padded, c.count, c.index, c.ended, c.hash, c.block, c.prefixed, c.schedule, c.round, c.rounded, c.digest⟩

/-- An offset the host may change while the engine is busy is none of the message (R199). -/
theorem Computes.message_ne {p q : Nat} (may : s.holdsMessageByte p = false) (busy : s.busy = true) (hq : q < m.length) :
    q ≠ p := by
  have houtside := State.holdsMessageByte_eq_false.mp may
  have hlatched := c.latched
  rintro rfl
  exact houtside ⟨busy, by omega⟩

theorem Computes.place {p : Nat} (may : s.holdsMessageByte p = false) (b : Byte) :
    Computes m (s.setMem (Memory.write s.mem p b)) :=
  c.setMem fun busy _ hq => Memory.read_write_other s.mem b (c.message_ne may busy hq)

theorem Computes.free {p : Nat} (may : s.holdsMessageByte p = false) : Computes m (s.setMem (Memory.erase s.mem p)) :=
  c.setMem fun busy _ hq => Memory.read_erase_other s.mem (c.message_ne may busy hq)

/-- Every move of the host but an accepted command leaves the computation alone. -/
theorem Computes.hostMove {i : Instr} (move : HostMove s i t)
    (noCommand : s.busy = false → i ≠ .digest ∧ ∀ v, i ≠ .wrCmd v) : Computes m t := by
  cases move with
  | ignored => exact c
  | answered _ x => exact c.answer x
  | length _ _ v => exact c.setLen v
  | accepted op rest =>
    rcases op with h | ⟨v, h⟩
    · exact absurd h (noCommand rest).1
    · exact absurd h ((noCommand rest).2 v)

end

/-! ### What the sequencer keeps -/

theorem State.busy_of_phaseIn {s : State} (hs : s.phaseIn 0x1 0xB) : s.busy = true := by
  rw [State.busy_eq_true]
  refine ⟨?_, ?_, ?_⟩ <;> intro h <;> simp [State.phaseIn, h, Phase.code] at hs

section
variable {m : List Byte} {s t : State} (c : Computes m s)
include c

theorem Computes.lb_eq (hs : s.phaseIn 0x2 0xB) : s.lb = BitVec.ofNat 64 (8 * m.length) := by
  rw [← c.bits hs, BitVec.ofNat_toNat, BitVec.setWidth_eq]

/-- What LDB is given for each place of its block is the padded byte (R113, R119). -/
theorem Computes.blockByte_eq (ph : s.ph = 0x5#4) (k : Nat) : blockByte s k = .ok (padByte m (64 * s.j.toNat + k)) := by
  have hmessage := c.message (State.busy_of_phaseIn (phaseIn_of_ph ph))
  have hshort := c.short
  unfold blockByte padByte
  simp only [c.latched, c.count (phaseIn_of_ph ph), c.lb_eq (phaseIn_of_ph ph)]
  split_ifs with hp
  · rw [memRead_ok]
    exact ⟨show _ < 2 ^ 61 by omega, by simp [hmessage _ hp, List.getD_eq_getElem?_getD, hp]⟩
  all_goals rfl

/-- What is left to show when `SEQ` moves on while the engine is busy: the clauses that speak of the phase of `t`. The
defaults close the rest for a `t` written as a record. -/
theorem Computes.advance (hs : s.phaseIn 0x1 0xB)
    (legal : t.seqLegal := by simp [State.seqLegal, Phase.code])
    (live : t.ph ≠ Phase.idle.code ∧ t.ph ≠ Phase.errh.code := by simp [Phase.code])
    (ecode : t.ecode = s.ecode := by rfl) (lreg : t.lreg = s.lreg := by rfl) (mem : t.mem = s.mem := by rfl)
    (bits : t.phaseIn 0x2 0xB → t.lb.toNat = 8 * m.length := by simp [State.phaseIn])
    (padded : t.phaseIn 0x3 0xB → t.pb.toNat = paddedBits (8 * m.length) := by simp [State.phaseIn])
    (count : t.phaseIn 0x4 0xB → t.nb.toNat = blockCount m.length := by simp [State.phaseIn])
    (index : t.phaseIn 0x5 0xA → t.j.toNat < blockCount m.length := by simp [State.phaseIn])
    (ended : t.ph = Phase.asm.code → t.j.toNat = blockCount m.length := by simp [Phase.code])
    (hash : t.phaseIn 0x5 0xB → t.h = hashAfter m t.j.toNat := by simp [State.phaseIn])
    (block : t.ph = Phase.ldw.code → t.b = blockOf m t.j.toNat := by simp [Phase.code])
    (prefixed : t.phaseIn 0x6 0x7 → ∀ i (hi : i < 64), i < t.t.toNat → t.w[i] = (expand (blockOf m t.j.toNat))[i] := by
      simp [State.phaseIn])
    (schedule : t.phaseIn 0x8 0x9 → t.w = expand (blockOf m t.j.toNat) := by simp [State.phaseIn])
    (round : t.ph = Phase.rnd.code → t.r = rounds (expand (blockOf m t.j.toNat)) t.h t.t.toNat := by simp [Phase.code])
    (rounded : t.ph = Phase.fold.code → t.r = rounds (expand (blockOf m t.j.toNat)) t.h 64 := by simp [Phase.code])
    (digest : t.ph = Phase.fin.code → digestOf m = .ok t.dg := by simp [Phase.code]) : Computes m t where
  legal := legal
  live := live
  noError := ecode.trans c.noError
  short := c.short
  latched := lreg ▸ c.latched
  message _ := by rw [State.holds, mem]; exact c.message (State.busy_of_phaseIn hs)
  bits := bits
  padded := padded
  count := count
  index := index
  ended := ended
  hash := hash
  block := block
  prefixed := prefixed
  schedule := schedule
  round := round
  rounded := rounded
  digest := digest

theorem Computes.chk (ph : s.ph = 0x1#4) :
    Computes m { s with lb := BitVec.ofNat 64 (s.lreg.toNat * 8), ph := 0x2#4, t := 0#6 } := by
  have hshort := c.short
  refine c.advance (phaseIn_of_ph ph) (bits := fun _ => ?_)
  simp only [c.latched, BitVec.toNat_ofNat]
  omega

theorem Computes.padl (ph : s.ph = 0x2#4) :
    Computes m { s with pb := BitVec.ofNat 65 (paddedBits s.lb.toNat), ph := 0x3#4, t := 0#6 } := by
  have hbits := c.bits (phaseIn_of_ph ph)
  exact c.advance (phaseIn_of_ph ph) (bits := fun _ => hbits)
    (padded := fun _ => (toNat_ofNat_paddedBits s.lb).trans (hbits ▸ rfl))

theorem Computes.segc (ph : s.ph = 0x3#4) : Computes m { s with nb := s.pb.extractLsb' 9 56, ph := 0x4#4, t := 0#6 } := by
  have hpadded := c.padded (phaseIn_of_ph ph)
  exact c.advance (phaseIn_of_ph ph) (bits := fun _ => c.bits (phaseIn_of_ph ph)) (padded := fun _ => hpadded)
    (count := fun _ => by rw [toNat_extractLsb'_nine, hpadded, blockCount])

theorem Computes.init (ph : s.ph = 0x4#4) :
    Computes m { s with h := initialHash, j := 0#56, ph := 0x5#4, t := 0#6 } :=
  c.advance (phaseIn_of_ph ph) (bits := fun _ => c.bits (phaseIn_of_ph ph)) (padded := fun _ => c.padded (phaseIn_of_ph ph))
    (count := fun _ => c.count (phaseIn_of_ph ph)) (index := fun _ => blockCount_pos m.length) (hash := fun _ => rfl)

/-- From LDB to FOLD a block is processed and only `SEQ`, `B`, `W` and `R` change, so only their clauses are left. -/
theorem Computes.within_block {b : Block} {w : Schedule} {r : Eight} {p : BitVec 4} {x : BitVec 6}
    (hs : s.phaseIn 0x5 0xA) (hp : 0x5 ≤ p.toNat ∧ p.toNat ≤ 0xA)
    (legal : State.seqLegal { s with b := b, w := w, r := r, ph := p, t := x })
    (block : p = 0x6#4 → b = blockOf m s.j.toNat := by simp)
    (prefixed : 0x6 ≤ p.toNat ∧ p.toNat ≤ 0x7 → ∀ i (hi : i < 64), i < x.toNat → w[i] = (expand (blockOf m s.j.toNat))[i] := by
      simp)
    (schedule : 0x8 ≤ p.toNat ∧ p.toNat ≤ 0x9 → w = expand (blockOf m s.j.toNat) := by simp)
    (round : p = 0x9#4 → r = rounds (expand (blockOf m s.j.toNat)) s.h x.toNat := by simp)
    (rounded : p = 0xA#4 → r = rounds (expand (blockOf m s.j.toNat)) s.h 64 := by simp) :
    Computes m { s with b := b, w := w, r := r, ph := p, t := x } := by
  have hne : ∀ q : BitVec 4, q.toNat < 0x5 ∨ 0xA < q.toNat → p ≠ q := by rintro q hq rfl; omega
  refine c.advance ⟨by omega, by omega⟩ (legal := legal) (live := ⟨hne _ (.inl (by decide)), hne _ (.inr (by decide))⟩)
    (bits := fun _ => c.bits ⟨by omega, by omega⟩) (padded := fun _ => c.padded ⟨by omega, by omega⟩)
    (count := fun _ => c.count ⟨by omega, by omega⟩) (index := fun _ => c.index hs)
    (ended := fun h => absurd h (hne _ (.inr (by decide)))) (hash := fun _ => c.hash ⟨by omega, by omega⟩)
    (block := block) (prefixed := prefixed) (schedule := schedule) (round := round)
    (rounded := rounded) (digest := fun h => absurd h (hne _ (.inr (by decide))))

theorem Computes.ldb (ph : s.ph = 0x5#4) {v : Block} (bytes : ∀ k (hk : k < 64), blockByte s k = .ok v[k]) :
    Computes m { s with b := v, ph := 0x6#4, t := 0#6 } := by
  refine c.within_block (phaseIn_of_ph ph) (by decide) (.inl ⟨rfl, by simp⟩) (block := fun _ => ?_)
  ext k hk
  rw [blockOf, Vector.getElem_ofFn, ← Except.ok.inj ((c.blockByte_eq ph k).symm.trans (bytes k hk))]

theorem Computes.ldw_filled (ph : s.ph = 0x6#4) (lt : s.t.toNat < 16) : ∀ i (hi : i < 64), i < s.t.toNat + 1 →
    (s.w.set s.t.toNat (blockWord s.b ⟨s.t.toNat, lt⟩) s.t.isLt)[i] = (expand (blockOf m s.j.toNat))[i] := by
  have hword : blockWord s.b ⟨s.t.toNat, lt⟩ = (expand (blockOf m s.j.toNat))[s.t.toNat] := by
    rw [expand_getElem_of_lt _ lt, c.block ph]
  exact set_eq_expand s.t.isLt hword (c.prefixed (phaseIn_of_ph ph))

theorem Computes.ldw (ph : s.ph = 0x6#4) (lt : s.t.toNat < 15) :
    Computes m { s with
      w := s.w.set s.t.toNat (blockWord s.b ⟨s.t.toNat, by omega⟩) s.t.isLt, ph := 0x6#4, t := s.t + 1#6 } := by
  have hx := index_succ_toNat (x := s.t) (by omega)
  exact c.within_block (phaseIn_of_ph ph) (by decide) (.inl ⟨rfl, by simp only; omega⟩) (block := fun _ => c.block ph)
    (prefixed := fun _ => hx ▸ c.ldw_filled ph (by omega))

theorem Computes.ldwLast (ph : s.ph = 0x6#4) (eq : s.t = 15#6) :
    Computes m { s with w := s.w.set 15 (blockWord s.b 15), ph := 0x7#4, t := 16#6 } := by
  have filled := c.ldw_filled ph (by simp [eq])
  simp only [eq] at filled
  exact c.within_block (phaseIn_of_ph ph) (by decide) (.inr (.inl ⟨rfl, by simp⟩)) (prefixed := fun _ => filled)

theorem Computes.exp_filled (ph : s.ph = 0x7#4) (ge : 16 ≤ s.t.toNat) : ∀ i (hi : i < 64), i < s.t.toNat + 1 →
    (s.w.set s.t.toNat (recurrence (at64 s.w (s.t - 16#6)) (at64 s.w (s.t - 15#6)) (at64 s.w (s.t - 7#6))
      (at64 s.w (s.t - 2#6))) s.t.isLt)[i] = (expand (blockOf m s.j.toNat))[i] :=
  set_eq_expand s.t.isLt (recurrence_eq_expand ge (c.prefixed (phaseIn_of_ph ph))) (c.prefixed (phaseIn_of_ph ph))

theorem Computes.exp (ph : s.ph = 0x7#4) (ge : 16 ≤ s.t.toNat) (lt : s.t.toNat < 63) :
    Computes m { s with
      w := s.w.set s.t.toNat (recurrence (at64 s.w (s.t - 16#6)) (at64 s.w (s.t - 15#6)) (at64 s.w (s.t - 7#6))
        (at64 s.w (s.t - 2#6))) s.t.isLt, ph := 0x7#4, t := s.t + 1#6 } := by
  have hx := index_succ_toNat lt
  exact c.within_block (phaseIn_of_ph ph) (by decide) (.inr (.inl ⟨rfl, by simp only; omega⟩))
    (prefixed := fun _ => hx ▸ c.exp_filled ph ge)

theorem Computes.expLast (ph : s.ph = 0x7#4) (eq : s.t = 63#6) :
    Computes m { s with
      w := s.w.set 63 (recurrence (at64 s.w 47#6) (at64 s.w 48#6) (at64 s.w 56#6) (at64 s.w 61#6)),
      ph := 0x8#4, t := 0#6 } := by
  have filled := c.exp_filled ph (by simp [eq])
  simp only [eq] at filled
  exact c.within_block (phaseIn_of_ph ph) (by decide) (by simp [State.seqLegal, Phase.code])
    (schedule := fun _ => Vector.ext fun i hi => filled i hi hi)

theorem Computes.ldr (ph : s.ph = 0x8#4) : Computes m { s with r := s.h, ph := 0x9#4, t := 0#6 } :=
  c.within_block (phaseIn_of_ph ph) (by decide) (.inr (.inr (.inl rfl)))
    (schedule := fun _ => c.schedule (phaseIn_of_ph ph)) (round := fun _ => rfl)

/-- RND performs round `t` (R148). -/
theorem Computes.round_eq (ph : s.ph = 0x9#4) :
    Machine.round s.t s.r (at64 s.w s.t) = rounds (expand (blockOf m s.j.toNat)) s.h (s.t.toNat + 1) := by
  rw [rounds_succ, ← c.round ph, c.schedule (phaseIn_of_ph ph)]

theorem Computes.rnd (ph : s.ph = 0x9#4) (lt : s.t.toNat < 63) :
    Computes m { s with r := Machine.round s.t s.r (at64 s.w s.t), ph := 0x9#4, t := s.t + 1#6 } :=
  c.within_block (phaseIn_of_ph ph) (by decide) (.inr (.inr (.inl rfl)))
    (schedule := fun _ => c.schedule (phaseIn_of_ph ph))
    (round := fun _ => by rw [c.round_eq ph, index_succ_toNat lt])

theorem Computes.rndLast (ph : s.ph = 0x9#4) (eq : s.t = 63#6) :
    Computes m { s with r := Machine.round 63#6 s.r (at64 s.w 63#6), ph := 0xA#4, t := 0#6 } := by
  have hround := c.round_eq ph
  rw [eq] at hround
  exact c.within_block (phaseIn_of_ph ph) (by decide) (by simp [State.seqLegal, Phase.code])
    (rounded := fun _ => hround)

/-- After the rounds, the fold gives the Hash State after one more block (R145, R149, R150). -/
theorem Computes.folded (ph : s.ph = 0xA#4) : foldInto s.h s.r = hashAfter m (s.j.toNat + 1) := by
  rw [hashAfter_succ, ← c.hash (phaseIn_of_ph ph), c.rounded ph, compress]

theorem Computes.nextBlockIndex_eq (ph : s.ph = 0xA#4) : (nextBlockIndex s.j).toNat = s.j.toNat + 1 := by
  have hnb := s.nb.isLt
  have hcount := c.count (phaseIn_of_ph ph)
  have hindex := c.index (phaseIn_of_ph ph)
  exact nextBlockIndex_toNat (by omega)

theorem Computes.fold (ph : s.ph = 0xA#4) (more : s.j.toNat + 1 ≠ s.nb.toNat) :
    Computes m { s with h := foldInto s.h s.r, j := nextBlockIndex s.j, ph := 0x5#4, t := 0#6 } := by
  have hnext := c.nextBlockIndex_eq ph
  have hcount := c.count (phaseIn_of_ph ph)
  have hindex := c.index (phaseIn_of_ph ph)
  exact c.advance (phaseIn_of_ph ph) (bits := fun _ => c.bits (phaseIn_of_ph ph))
    (padded := fun _ => c.padded (phaseIn_of_ph ph)) (count := fun _ => hcount) (index := fun _ => by simp only; omega)
    (hash := fun _ => by rw [hnext, c.folded ph])

theorem Computes.foldLast (ph : s.ph = 0xA#4) (last : s.j.toNat + 1 = s.nb.toNat) :
    Computes m { s with h := foldInto s.h s.r, j := nextBlockIndex s.j, ph := 0xB#4, t := 0#6 } := by
  have hnext := c.nextBlockIndex_eq ph
  have hcount := c.count (phaseIn_of_ph ph)
  exact c.advance (phaseIn_of_ph ph) (bits := fun _ => c.bits (phaseIn_of_ph ph))
    (padded := fun _ => c.padded (phaseIn_of_ph ph)) (count := fun _ => hcount) (ended := fun _ => by simp only; omega)
    (hash := fun _ => by rw [hnext, c.folded ph])

theorem Computes.asm (ph : s.ph = 0xB#4) : Computes m { s with dg := assemble s.h, ph := 0xC#4, t := 0#6 } :=
  c.advance (phaseIn_of_ph ph)
    (digest := fun _ => by rw [digestOf_eq c.short, c.hash (phaseIn_of_ph ph), c.ended ph])

/-- Every move of the sequencer keeps the computation; the two error entries are not taken (R110, R171). -/
theorem Computes.microStep (move : MicroStep s t) : Computes m t := by
  cases move with
  | fin => exact c
  | idle ph => exact absurd ph c.live.1
  | errh ph => exact absurd ph c.live.2
  | chkFail _ _ big =>
    have hshort := c.short
    rw [c.latched] at big
    omega
  | chk ph => exact c.chk ph
  | padl ph => exact c.padl ph
  | segcFail ph _ odd => exact absurd (c.padded (phaseIn_of_ph ph) ▸ paddedBits_mod _) odd
  | segc ph => exact c.segc ph
  | init ph => exact c.init ph
  | ldb ph _ v bytes => exact c.ldb ph bytes
  | ldw ph lt => exact c.ldw ph lt
  | ldwLast ph eq => exact c.ldwLast ph eq
  | exp ph ge lt => exact c.exp ph ge lt
  | expLast ph eq => exact c.expLast ph eq
  | ldr ph => exact c.ldr ph
  | rnd ph lt => exact c.rnd ph lt
  | rndLast ph eq => exact c.rndLast ph eq
  | fold ph _ more => exact c.fold ph more
  | foldLast ph _ last => exact c.foldLast ph last
  | asm ph => exact c.asm ph

end

/-! ### The obligation -/

/-- An access decodes to an operation of the A-format, never to the command itself (R70, R79). -/
theorem decodeHost_ne_digest (a : Access) : decodeHost a ≠ .ok .digest := by
  unfold decodeHost
  split_ifs
  · nofun
  · nofun
  · intro h
    cases (encode_of_decodeAccess h).2

/-- A write of `CMD` that completes wrote the one command word (R80, R96). -/
theorem eq_one_of_execWrCmd_next {v : Word} {s t : State} (h : execWrCmd v s = .next t) : v = 0x00000001#32 := by
  unfold execWrCmd at h
  split at h
  · exact (decodeCommand_ok_iff.mp ‹_›).1
  · cases h

/-- Settles O46: whatever the turn, what it does is one of the moves above; the accepted command is the one move of the host
that is none of them. -/
theorem computationSurvivesEveryInterleaving : Obligations.ComputationSurvivesEveryInterleaving := by
  intro m s t c noReset noCommand h
  rcases step_cases h with ⟨turn, -⟩ | ⟨a, turn, i, hi, hexec⟩ | ⟨p, b, -, -, may, rfl⟩ | ⟨p, -, may, rfl⟩ | ⟨turn, -⟩
  · exact c.consume.microStep (microStep_of_step turn h)
  · refine c.consume.hostMove (hostMove_of_exec (isHostOperation_of_decodeHost hi) hexec) fun rest => ⟨?_, ?_⟩
    · rintro rfl
      exact decodeHost_ne_digest a hi
    · rintro v rfl
      obtain rfl := eq_one_of_execWrCmd_next hexec
      have busy := noCommand.resolve_right fun hother => hother a turn hi
      exact absurd (busy.symm.trans rest) (by decide)
  · exact c.consume.place may b
  · exact c.consume.free may
  · exact absurd turn noReset

end Sys2Proof.Machine
end

section
/-! The whole operation (40_host_interface.md R96, R101, R103; 70_reset_and_hazards.md R203): the accepted command and the
sequencer's steps after it, counted down to FIN. -/

namespace Sys2Proof.Machine

/-! ### The accepted command -/

/-- The host's turn with the command, when the engine is not busy, is acceptance. -/
theorem step_command {s : State} (rest : s.busy = false) :
    step { s with agenda := [.host commandAccess] } = .next ({ s with agenda := [] } : State).accept :=
  (step_host rfl (decodeHost_cmd 0x00000001#32)).trans (digestCommand_idle rest)

/-- Settles O42: the command latches the length, and CHK rejects it. -/
theorem oversizedLengthContract : Obligations.OversizedLengthContract := by
  intro s rest big
  have hchk : step ({ s with agenda := [] } : State).accept =
      .next (({ s with agenda := [] } : State).accept.raise .messageTooLarge) := by
    rw [step_idle_agenda rfl (i := .chk) rfl]
    exact if_pos big
  refine ⟨_, (run_succ (step_command rest)).trans (run_succ hchk), ?_, fun _ hi => Vector.getElem_replicate hi, rfl⟩
  refine BitVec.eq_of_toNat_eq ?_
  rw [State.status_toNat]
  simp [State.busy, State.done, State.err, Phase.code, EngineError.code]

/-- On a message in place, acceptance starts its computation: none of its registers is read before CHK has written it. -/
theorem Computes.accept {m : List Byte} {s : State} (short : m.length < 2 ^ 61) (hlen : s.len.toNat = m.length)
    (holds : s.holds m) : Computes m s.accept := by
  rw [State.accept_frame]
  constructor
  case short => exact short
  case latched => exact hlen
  case message => exact fun _ => holds
  all_goals simp [State.seqLegal, State.phaseIn, Phase.code]

/-- Settles O45. -/
theorem commandStartsTheComputation : Obligations.CommandStartsTheComputation :=
  fun _ s rest short hlen holds => ⟨s.accept, digestCommand_idle rest, Computes.accept short hlen holds⟩

/-! ### Every busy step completes (R203) -/

/-- Of the decoded micro-operations only LDB can stop. -/
theorem exec_next_of_decodeSeq {s : State} {i : Instr} (h : decodeSeq s.ph s.t = .ok i) (noLdb : i ≠ .ldb) :
    ∃ t, exec i s = .next t := by
  have fields := seqOf_decodeSeq h
  cases i <;> simp only [seqOf, decide_eq_true_eq, Bool.false_eq_true] at fields
  case ldb => exact absurd rfl noLdb
  case chk => rcases execChk_cases s with ⟨-, h⟩ | ⟨-, h⟩ <;> exact ⟨_, h⟩
  case segc => rcases execSegc_cases s with ⟨-, h⟩ | ⟨-, h⟩ <;> exact ⟨_, h⟩
  case ldwT x =>
    obtain ⟨-, rfl, hx⟩ := fields
    simp only [exec, execLdw, dif_pos hx]
    split_ifs <;> exact ⟨_, rfl⟩
  case expT x =>
    obtain ⟨-, rfl, hx⟩ := fields
    simp only [exec, execExp, if_pos hx]
    split_ifs <;> exact ⟨_, rfl⟩
  case rndT x =>
    simp only [exec, execRnd]
    split_ifs <;> exact ⟨_, rfl⟩
  case fold =>
    simp only [exec, execFold]
    split_ifs <;> exact ⟨_, rfl⟩
  all_goals exact ⟨_, rfl⟩

theorem State.seqLegal.ph_le {s : State} (legal : s.seqLegal) : s.ph.toNat ≤ 0xD := by
  rcases legal with ⟨ph, -⟩ | ⟨ph, -⟩ | ph | ⟨hle, -⟩
  · simp [ph, Phase.code]
  · simp [ph, Phase.code]
  · simp [ph, Phase.code]
  · exact hle

/-- A legal `SEQ` is decoded (R28, R80). -/
theorem State.seqLegal.decodeSeq_ok {s : State} (legal : s.seqLegal) : ∃ i, decodeSeq s.ph s.t = .ok i := by
  by_contra h
  have reserved := decodeSeq_error_iff.mp (exists_error_iff.mpr h)
  simp only [State.seqLegal, Phase.code] at legal
  rcases legal with ⟨ph, ht⟩ | ⟨ph, ht⟩ | ph | ⟨hph, hldw, hexp, hrnd, ht⟩
  · simp [ph] at reserved
    omega
  · simp [ph] at reserved
    omega
  · simp [ph] at reserved
  · simp [hldw, hexp, hrnd, ht] at reserved
    omega

/-- A computation never stops at the sequencer's turn: LDB is given every byte of its block (R56, R199). -/
theorem Computes.exec_next {m : List Byte} {s : State} (c : Computes m s) {i : Instr}
    (hi : decodeSeq s.ph s.t = .ok i) : ∃ t, exec i s = .next t := by
  by_cases hldb : i = .ldb
  · subst i
    have fields := seqOf_decodeSeq hi
    simp only [seqOf, decide_eq_true_eq] at fields
    refine ⟨_, execLdb_ok (v := blockOf m s.j.toNat) (collect_ok.mpr fun k hk => ?_)⟩
    rw [c.blockByte_eq fields.1, blockOf, Vector.getElem_ofFn]
  · exact exec_next_of_decodeSeq hi hldb

/-! ### The number of steps (R101, R204) -/

/-- The steps the sequencer has taken since the command, for a message of `n` blocks: 4 before the first block, 131 for each
block that is folded and those of block `J` so far, and ASM after the last (R101). -/
def stepsTaken (n : Nat) (s : State) : Nat :=
  match s.ph with
  | 0x1#4 => 0
  | 0x2#4 => 1
  | 0x3#4 => 2
  | 0x4#4 => 3
  | 0x5#4 => 4 + 131 * s.j.toNat
  | 0x6#4 => 5 + 131 * s.j.toNat + s.t.toNat
  | 0x7#4 => 5 + 131 * s.j.toNat + s.t.toNat
  | 0x8#4 => 69 + 131 * s.j.toNat
  | 0x9#4 => 70 + 131 * s.j.toNat + s.t.toNat
  | 0xA#4 => 134 + 131 * s.j.toNat
  | 0xB#4 => 4 + 131 * s.j.toNat
  | _ => 5 + 131 * n

theorem State.status_of_fin {s : State} (fin : s.ph = 0xC#4) (noError : s.ecode = 0#4) : s.status = 0x00000002#32 := by
  refine BitVec.eq_of_toNat_eq ?_
  rw [State.status_toNat]
  simp [State.busy, State.done, State.err, fin, noError, Phase.code]

/-- What the steps of the sequencer leave alone: the length the host programmed, the message memory and the turns to come. -/
structure SameHostSide (s t : State) : Prop where
  len : t.len = s.len
  mem : t.mem = s.mem
  agenda : t.agenda = s.agenda

theorem SameHostSide.refl (s : State) : SameHostSide s s := ⟨rfl, rfl, rfl⟩

theorem SameHostSide.trans {s t u : State} (h : SameHostSide s t) (h' : SameHostSide t u) : SameHostSide s u :=
  ⟨h'.len.trans h.len, h'.mem.trans h.mem, h'.agenda.trans h.agenda⟩

theorem MicroStep.sameHostSide {s t : State} (move : MicroStep s t) : SameHostSide s t := by
  cases move <;> exact ⟨rfl, rfl, rfl⟩

section
variable {m : List Byte} {s t : State} (c : Computes m s)
include c

/-- Every step of a busy engine is counted. -/
theorem Computes.stepsTaken_microStep (busy : s.busy = true) (move : MicroStep s t) :
    stepsTaken (blockCount m.length) t = stepsTaken (blockCount m.length) s + 1 := by
  obtain ⟨-, noError⟩ := (c.microStep move).live
  cases move with
  | idle ph => exact absurd ph c.live.1
  | errh ph => exact absurd ph c.live.2
  | chkFail | segcFail => exact absurd rfl noError
  | fin ph => exact absurd ph (State.busy_eq_true.mp busy).2.1
  | chk ph | padl ph | segc ph | init ph => simp [stepsTaken, ph]
  | ldb ph | ldr ph => simp only [stepsTaken, ph]; bv_omega
  | ldwLast ph eq | expLast ph eq | rndLast ph eq => simp only [stepsTaken, ph, eq]; bv_omega
  | ldw ph lt => simp only [stepsTaken, ph, index_succ_toNat (x := s.t) (by omega)]; omega
  | exp ph _ lt | rnd ph lt => simp only [stepsTaken, ph, index_succ_toNat lt]; omega
  | fold ph | foldLast ph => simp only [stepsTaken, ph, c.nextBlockIndex_eq ph]; omega
  | asm ph => simp +arith [stepsTaken, ph, c.ended ph]

theorem Computes.fin_of_not_busy (rest : s.busy = false) : s.ph = 0xC#4 := by
  rcases State.busy_eq_false.mp rest with ph | ph | ph
  · exact absurd ph c.live.1
  · exact ph
  · exact absurd ph c.live.2

/-- A busy engine has a step left. -/
theorem Computes.stepsTaken_lt (busy : s.busy = true) :
    stepsTaken (blockCount m.length) s < 5 + 131 * blockCount m.length := by
  have ht := s.t.isLt
  unfold stepsTaken
  split
  case h_1 | h_2 | h_3 | h_4 => omega
  case h_5 | h_6 | h_7 | h_8 | h_9 | h_10 =>
    have hindex := c.index (phaseIn_of_ph ‹_›)
    omega
  case h_11 =>
    have hended := c.ended ‹_›
    omega
  case h_12 =>
    have hlegal := c.legal.ph_le
    obtain ⟨hidle, hfin, herrh⟩ := State.busy_eq_true.mp busy
    simp only [Phase.code, imp_false] at *
    bv_omega

/-- An engine that is not busy has taken them all. -/
theorem Computes.stepsTaken_eq (rest : s.busy = false) :
    stepsTaken (blockCount m.length) s = 5 + 131 * blockCount m.length := by
  simp [stepsTaken, c.fin_of_not_busy rest]

theorem Computes.busy_iff : s.busy = true ↔ stepsTaken (blockCount m.length) s < 5 + 131 * blockCount m.length := by
  refine ⟨c.stepsTaken_lt, fun left => ?_⟩
  by_contra rest
  have hall := c.stepsTaken_eq (Bool.eq_false_of_not_eq_true rest)
  omega

/-- The sequencer's step of a busy engine, with no turn listed. -/
theorem Computes.sequencer_step (busy : s.busy = true) (agenda : s.agenda = []) :
    ∃ t, step s = .next t ∧ Computes m t ∧ SameHostSide s t ∧
      stepsTaken (blockCount m.length) t = stepsTaken (blockCount m.length) s + 1 := by
  obtain ⟨i, hi⟩ := c.legal.decodeSeq_ok
  obtain ⟨t, ht⟩ := c.exec_next hi
  have move := microStep_of_exec (seqOf_decodeSeq hi) ht
  exact ⟨t, (step_idle_agenda agenda hi).trans ht, c.microStep move, move.sameHostSide, c.stepsTaken_microStep busy move⟩

/-- From the first step on, `k` steps complete as long as there are so many. -/
theorem Computes.run_steps (start : stepsTaken (blockCount m.length) s = 0) (agenda : s.agenda = []) (k : Nat)
    (hk : k ≤ 5 + 131 * blockCount m.length) :
    ∃ t, Host.Core.run core k s = .next t ∧ Computes m t ∧ SameHostSide s t ∧
      stepsTaken (blockCount m.length) t = k := by
  induction k with
  | zero => exact ⟨s, rfl, c, .refl s, start⟩
  | succ k ih =>
    obtain ⟨t, hrun, ct, same, htaken⟩ := ih (by omega)
    obtain ⟨u, hstep, cu, same', htaken'⟩ := ct.sequencer_step (ct.busy_iff.mpr (by omega)) (same.agenda.trans agenda)
    exact ⟨u, run_snoc hrun hstep, cu, same.trans same', by omega⟩

end

/-- Settles O44: after the command the steps are counted up to `5 + 131 * N`, where the engine is in FIN and the computation
says what `DG` holds. -/
theorem digestContract : Obligations.DigestContract := by
  intro m s rest short hlen holds
  have c : Computes m ({ s with agenda := [] } : State).accept := Computes.accept short hlen holds
  have hrun : ∀ k, Host.Core.run core (1 + k) { s with agenda := [.host commandAccess] } =
      Host.Core.run core k ({ s with agenda := [] } : State).accept := fun k => by
    rw [Nat.add_comm, run_succ (step_command rest)]
  refine ⟨fun k hk => ?_, ?_⟩
  · obtain ⟨u, hu, cu, -, htaken⟩ := c.run_steps rfl rfl k (by omega)
    exact ⟨u, (hrun k).trans hu, cu.busy_iff.mpr (by omega)⟩
  · obtain ⟨t, ht, ct, same, htaken⟩ := c.run_steps rfl rfl _ le_rfl
    have notBusy : ¬ State.busy t = true := fun busy => by
      have left := ct.busy_iff.mp busy
      omega
    have fin := ct.fin_of_not_busy (Bool.eq_false_of_not_eq_true notBusy)
    exact ⟨t, (hrun _).trans ht, State.status_of_fin fin ct.noError, ct.digest fin, same.len, same.mem, same.agenda⟩

end Sys2Proof.Machine
end

section
/-! Padder and block segmenter (41_padder_segmenter.md R111 to R121): the padded message as a whole, and the four
micro-operations CHK, PADL, SEGC and LDB that make it block by block. -/

namespace Sys2Proof.Machine

/-! ### The padded message (R111 to R114, R120, R121) -/

/-- The number of blocks as R121 gives it. -/
theorem blockCount_eq (len : Nat) : blockCount len = (len + 8) / 64 + 1 := by
  unfold blockCount paddedBits
  omega

/-- The message bits, the bit 1 and the 64 bits of the length fit in the padded length. -/
theorem le_paddedBits (n : Nat) : n + 65 ≤ paddedBits n := by
  unfold paddedBits
  omega

/-- Settles O54: the padded length lies between `le_paddedBits` and `paddedBits_lt`. -/
theorem paddedLengthFacts : Obligations.PaddedLengthFacts := by
  intro len
  have hlt := paddedBits_lt (8 * len)
  exact ⟨blockCount_eq len, paddedBits_eq len, le_paddedBits (8 * len), by omega⟩

/-- Settles O55: the equality of bits holds for every length. -/
theorem paddedBitsAreThePaddedBytes : Obligations.PaddedBitsAreThePaddedBytes :=
  fun m _ _ _ hp hq => paddedBit_eq_padByte m hp hq

/-- Settles O56: the padded bits are cut into the blocks of the padded bytes, whatever the length. -/
theorem padThenSegmentIsPerBlock : Obligations.PadThenSegmentIsPerBlock :=
  fun m _ => segment_padBits m

/-! ### The lengths (R116 to R118) -/

/-- A legal length in bits fits `LB`. -/
theorem toNat_ofNat_bitLength {len : Nat} (small : len < 2 ^ 61) : (BitVec.ofNat 64 (len * 8)).toNat = 8 * len := by
  rw [BitVec.toNat_ofNat, Nat.mod_eq_of_lt (by omega), Nat.mul_comm]

/-- Settles O18: the two ends of CHK exclude each other, and a length that passes loses no bit. -/
theorem chkChecksTheLength : Obligations.ChkChecksTheLength := by
  refine ⟨rfl, fun s => ?_⟩
  rcases execChk_cases s with ⟨big, hexec⟩ | ⟨small, hexec⟩
  · exact ⟨fun _ => hexec, fun small => absurd big (Nat.not_le.mpr small)⟩
  · exact ⟨fun big => absurd small (Nat.not_lt.mpr big), fun _ => ⟨_, hexec, toNat_ofNat_bitLength small, rfl⟩⟩

/-- Settles O19: 65 bits hold the padded length of any `LB`, so its bounds are those of `paddedBits`. -/
theorem padlComputesThePaddedLength : Obligations.PadlComputesThePaddedLength := by
  refine ⟨rfl, fun s => ⟨_, rfl, rfl, ?_⟩⟩
  rw [State.setSeq_pb, State.setPb_pb, toNat_ofNat_paddedBits]
  exact ⟨paddedBits_mod _, le_paddedBits _, paddedBits_lt _⟩

/-- Settles O20: the two ends of SEGC exclude each other, and 56 bits hold the quotient. -/
theorem segcCountsTheBlocks : Obligations.SegcCountsTheBlocks := by
  refine ⟨rfl, fun s => ?_⟩
  rcases execSegc_cases s with ⟨odd, hexec⟩ | ⟨whole, hexec⟩
  · exact ⟨fun _ => hexec, fun whole => absurd whole odd⟩
  · exact ⟨fun odd => absurd whole odd, fun _ => ⟨_, hexec, toNat_extractLsb'_nine s.pb, rfl⟩⟩

/-! ### The block (R119) -/

/-- The byte LDB is given for place `k` of its block, range by range of R119; a byte of the length by its value, for the
places `q` where R14 gives it one. -/
theorem blockByte_ok {s : State} {k : Nat} {b : Byte} (h : blockByte s k = .ok b) :
    if 64 * s.j.toNat + k < s.lreg.toNat then some b = Memory.read s.mem (64 * s.j.toNat + k)
    else if 64 * s.j.toNat + k = s.lreg.toNat then b = 0x80#8
    else if 64 * s.j.toNat + k + 8 < 64 * s.nb.toNat then b = 0x00#8
    else ∀ q, q < 8 → 64 * s.j.toNat + k + 8 = 64 * s.nb.toNat + q →
      b.toNat = s.lb.toNat / 2 ^ (8 * (7 - q)) % 2 ^ 8 := by
  simp only [blockByte] at h
  split_ifs at h ⊢ with hmessage hmark hzero
  · exact (memRead_ok.mp h).2.symm
  · exact (Except.ok.inj h).symm
  · exact (Except.ok.inj h).symm
  · intro q hq hplace
    have hindex : 64 * s.j.toNat + k + 8 - 64 * s.nb.toNat = q := by omega
    have hshift : 56 - 8 * q = 8 * (7 - q) := by omega
    rw [← Except.ok.inj h, hindex, byteBe64_toNat _ hq, hshift]

/-- LDB goes on when it misses no byte of its block, and then it has been given all 64 of them. -/
theorem execLdb_of_not_missesByte {s : State} (present : ∀ k, k < 64 → ¬ missesByte s k) :
    ∃ v : Block, exec .ldb s = .next { s with b := v, ph := 0x6#4, t := 0#6 } ∧
      ∀ k (hk : k < 64), blockByte s k = .ok v[k] := by
  have goesOn : ¬ ∀ t, exec .ldb s ≠ .next t := fun stops => by
    obtain ⟨k, hk, hmiss⟩ := (ldbStopsOnlyOnAMissingByte s).1.mp stops
    exact present k hk hmiss
  obtain ⟨t, hexec⟩ := not_forall_not.mp goesOn
  obtain ⟨v, bytes, rfl⟩ := execLdb_next hexec
  exact ⟨v, hexec, bytes⟩

/-- Settles O22: with its message bytes there no byte of the block is missed, and each is the one R119 gives. -/
theorem ldbLoadsTheBlock : Obligations.LdbLoadsTheBlock := by
  refine ⟨rfl, fun s present => ?_⟩
  have noneMissed : ∀ k, k < 64 → ¬ missesByte s k := by
    rintro k hk ⟨hmessage, hmiss⟩
    obtain ⟨hin, b, hb⟩ := present k hk hmessage
    rcases hmiss with hout | hnone
    · exact absurd hin (Nat.not_lt.mpr hout)
    · exact absurd (hb.symm.trans hnone) (Option.some_ne_none b)
  obtain ⟨v, hexec, bytes⟩ := execLdb_of_not_missesByte noneMissed
  exact ⟨_, hexec, rfl, fun k hk => blockByte_ok (bytes k hk)⟩

end Sys2Proof.Machine
end

section
/-! The Schedule Expander: the mixing functions bit by bit (R130, R131, R140, R141), the schedule of a block (R132), and
its operations LDW and EXP (R133, R134). -/

namespace Sys2Proof.Machine

/-! ### The mixing functions, bit by bit -/

theorem ssig0_getLsbD (x : Word) {i : Nat} (hi : i < 32) :
    (ssig0 x).getLsbD i = ((x.getLsbD ((i + 7) % 32) ^^ x.getLsbD ((i + 18) % 32)) ^^
      (decide (i ≤ 28) && x.getLsbD (i + 3))) := by
  have inside : i + 3 < 32 ↔ i ≤ 28 := by omega
  simp only [ssig0, BitVec.getLsbD_xor, rotr_getLsbD x _ hi, shr_getLsbD, inside]

theorem ssig1_getLsbD (x : Word) {i : Nat} (hi : i < 32) :
    (ssig1 x).getLsbD i = ((x.getLsbD ((i + 17) % 32) ^^ x.getLsbD ((i + 19) % 32)) ^^
      (decide (i ≤ 21) && x.getLsbD (i + 10))) := by
  have inside : i + 10 < 32 ↔ i ≤ 21 := by omega
  simp only [ssig1, BitVec.getLsbD_xor, rotr_getLsbD x _ hi, shr_getLsbD, inside]

theorem bsig0_getLsbD (x : Word) {i : Nat} (hi : i < 32) :
    (bsig0 x).getLsbD i =
      ((x.getLsbD ((i + 2) % 32) ^^ x.getLsbD ((i + 13) % 32)) ^^ x.getLsbD ((i + 22) % 32)) := by
  simp only [bsig0, BitVec.getLsbD_xor, rotr_getLsbD x _ hi]

theorem bsig1_getLsbD (x : Word) {i : Nat} (hi : i < 32) :
    (bsig1 x).getLsbD i =
      ((x.getLsbD ((i + 6) % 32) ^^ x.getLsbD ((i + 11) % 32)) ^^ x.getLsbD ((i + 25) % 32)) := by
  simp only [bsig1, BitVec.getLsbD_xor, rotr_getLsbD x _ hi]

/-- Settles O51: each function is the xor of rotations and shifts whose bits are known; a shift by 3 leaves the word from
bit 29 on, one by 10 from bit 22 on. -/
theorem mixingFunctionBits : Obligations.MixingFunctionBits :=
  fun x _ hi => ⟨ssig0_getLsbD x hi, ssig1_getLsbD x hi, bsig0_getLsbD x hi, bsig1_getLsbD x hi⟩

/-! ### The schedule of a block (R132) -/

/-- Reducing after each of the three additions is reducing once. -/
theorem recurrence_toNat (w16 w15 w7 w2 : Word) : (recurrence w16 w15 w7 w2).toNat =
    (w16.toNat + (ssig0 w15).toNat + w7.toNat + (ssig1 w2).toNat) % 2 ^ 32 := by
  simp only [recurrence, add32_toNat, Nat.mod_add_mod]

/-- Settles O53: an entry below 16 is a word of the block, any other is the recurrence on the entries before it. -/
theorem scheduleRecurrence : Obligations.ScheduleRecurrence := by
  refine fun b i hi => ⟨fun low _ => expand_getElem_of_lt b low, fun high => ?_⟩
  rw [expand_getElem_of_ge b high hi, recurrence_toNat]

/-! ### LDW and EXP (R133, R134) -/

/-- The `SEQ` value of a phase and an index, as a number (R73). -/
theorem seqWord_eq_ofNat (ph : BitVec 4) (t : BitVec 6) : seqWord ph t = BitVec.ofNat 10 (2 ^ 6 * ph.toNat + t.toNat) := by
  apply BitVec.eq_of_toNat_eq
  rw [seqWord, BitVec.toNat_append, ← Nat.shiftLeft_add_eq_or_of_lt t.isLt, Nat.shiftLeft_eq, Nat.mul_comm,
    BitVec.toNat_ofNat, Nat.mod_eq_of_lt (by omega)]

theorem decode_seq_ofNat (ph : BitVec 4) (t : BitVec 6) :
    decode (.seq (BitVec.ofNat 10 (2 ^ 6 * ph.toNat + t.toNat))) = decodeSeq ph t := by
  rw [← seqWord_eq_ofNat, decode_seqWord]

/-- Every number below 64 is the value of an index. -/
theorem exists_index {n : Nat} (hn : n < 64) : ∃ x : BitVec 6, x.toNat = n ∧ BitVec.ofNat 6 n = x :=
  ⟨_, (BitVec.toNat_ofNat n 6).trans (Nat.mod_eq_of_lt hn), rfl⟩

/-- LDW in the range of R73. The index after 15 is 16, where EXP begins. -/
theorem exec_ldwT {x : BitVec 6} (hx : x.toNat < 16) (s : State) : exec (.ldwT x) s = .next { s with
    w := s.w.set x.toNat (blockWord s.b ⟨x.toNat, hx⟩) x.isLt, ph := if x.toNat < 15 then 0x6#4 else 0x7#4,
    t := x + 1#6 } := by
  show execLdw x s = _
  rw [execLdw, dif_pos hx]
  by_cases more : x.toNat < 15
  · rw [if_pos more, if_pos more, State.setW_setSeq, Phase.code]
  · obtain rfl : x = 15#6 := by bv_omega
    rfl

/-- EXP in the range of R73. The index after 63 wraps to 0, where LDR stands. -/
theorem exec_expT {x : BitVec 6} (hx : 16 ≤ x.toNat) (s : State) : exec (.expT x) s = .next { s with
    w := s.w.set x.toNat (recurrence s.w[x.toNat - 16] s.w[x.toNat - 15] s.w[x.toNat - 7] s.w[x.toNat - 2]) x.isLt,
    ph := if x.toNat < 63 then 0x7#4 else 0x8#4, t := x + 1#6 } := by
  have back : ∀ k : BitVec 6, k.toNat ≤ 16 → at64 s.w (x - k) = s.w[x.toNat - k.toNat] :=
    fun k hk => at64_sub s.w x k (by omega)
  show execExp x s = _
  rw [execExp, if_pos hx, back 16#6 (by decide), back 15#6 (by decide), back 7#6 (by decide), back 2#6 (by decide)]
  by_cases more : x.toNat < 63
  · rw [if_pos more, if_pos more]
    rfl
  · obtain rfl : x = 63#6 := by bv_omega
    rfl

/-- Settles O24: the entry written is the block's word, and the last index is where the phase changes. -/
theorem ldwWritesAWordOfTheBlock : Obligations.LdwWritesAWordOfTheBlock := by
  intro n hn
  obtain ⟨x, rfl, hofNat⟩ := exists_index (n := n) (by omega)
  rw [hofNat]
  refine ⟨(decode_seq_ofNat 0x6#4 x).trans (if_pos hn), fun s => ⟨_, exec_ldwT hn s, rfl, ?_, ?_, ?_⟩⟩
  · rw [Vector.getElem_set_self, blockWord, be32_toNat]
  · exact fun i hi other => Vector.getElem_set_ne x.isLt hi other.symm
  · by_cases more : x.toNat < 15
    · simp [more, index_succ_toNat (x := x) (by omega)]
    · obtain rfl : x = 15#6 := by bv_omega
      exact ⟨rfl, rfl⟩

/-- Settles O25: the entry written is the recurrence, and the last index is where the phase changes. -/
theorem expWritesTheRecurrence : Obligations.ExpWritesTheRecurrence := by
  intro n hn low
  obtain ⟨x, rfl, hofNat⟩ := exists_index hn
  rw [hofNat]
  refine ⟨(decode_seq_ofNat 0x7#4 x).trans (if_pos low), fun s => ⟨_, exec_expT low s, rfl, ?_, ?_, ?_⟩⟩
  · rw [Vector.getElem_set_self, recurrence_toNat]
  · exact fun i hi other => Vector.getElem_set_ne x.isLt hi other.symm
  · by_cases more : x.toNat < 63
    · simp [more, index_succ_toNat more]
    · obtain rfl : x = 63#6 := by bv_omega
      exact ⟨rfl, rfl⟩

end Sys2Proof.Machine
end

section
/-! The Compressor (43_compressor.md): `Ch` and `Maj` bit by bit (R142, R143), the operations INIT, LDR, RND and FOLD (R144,
R146 to R149), and the 131 steps of one block (R145, R203). -/

namespace Sys2Proof.Machine

/-! ### `Ch` and `Maj`, bit by bit (R142, R143) -/

theorem ch_getLsbD (x y z : Word) {i : Nat} (hi : i < 32) :
    (ch x y z).getLsbD i = if x.getLsbD i = true then y.getLsbD i else z.getLsbD i := by
  rw [ch, BitVec.getLsbD_xor, BitVec.getLsbD_and, BitVec.getLsbD_and, BitVec.getLsbD_not]
  cases x.getLsbD i <;> simp [hi]

theorem maj_getLsbD (x y z : Word) (i : Nat) :
    (maj x y z).getLsbD i = if x.getLsbD i = y.getLsbD i then x.getLsbD i else z.getLsbD i := by
  simp only [maj, BitVec.getLsbD_xor, BitVec.getLsbD_and]
  cases x.getLsbD i <;> cases y.getLsbD i <;> simp

/-- Settles O52: the bit of `x` decides, for `Maj` together with that of `y`. -/
theorem chooseAndMajority : Obligations.ChooseAndMajority :=
  fun x y z i hi => ⟨ch_getLsbD x y z hi, maj_getLsbD x y z i⟩

/-! ### INIT and LDR (R146, R147) -/

theorem execInit_eq (s : State) :
    exec .init s = .next { s with h := initialHash, j := 0#56, ph := 0x5#4, t := 0#6 } := by
  show execInit s = _
  rw [execInit, State.setH_setJ_setSeq, Phase.code]

theorem execLdr_eq (s : State) : exec .ldr s = .next { s with r := s.h, ph := 0x9#4, t := 0#6 } := by
  show execLdr s = _
  rw [execLdr, State.setR_setSeq, Phase.code]

/-- Settles O26: the update of `H` and `J` and the transfer to LDB, as one record. -/
theorem initSeedsTheHashState : Obligations.InitSeedsTheHashState :=
  ⟨decode_seqWord 0x4#4 0#6, execInit_eq⟩

/-- Settles O27: the update of `R` and the transfer to RND, as one record. -/
theorem ldrCopiesTheHashState : Obligations.LdrCopiesTheHashState :=
  ⟨decode_seqWord 0x8#4 0#6, execLdr_eq⟩

/-! ### RND (R144, R148) -/

/-- RND at any index. The index after 63 wraps to 0, where FOLD stands. -/
theorem exec_rndT (x : BitVec 6) (s : State) : exec (.rndT x) s = .next { s with
    r := round x s.r (at64 s.w x), ph := if x.toNat < 63 then 0x9#4 else 0xA#4, t := x + 1#6 } := by
  show execRnd x s = _
  simp only [execRnd, State.setR_setSeq]
  by_cases more : x.toNat < 63
  · rw [if_pos more, if_pos more, Phase.code]
  · obtain rfl : x = 63#6 := by bv_omega
    rfl

/-- Reducing after each of the four additions is reducing once. -/
theorem temp1_toNat (t : BitVec 6) (r : Eight) (w : Word) : (temp1 t r w).toNat =
    (r[7].toNat + (bsig1 r[4]).toNat + (ch r[4] r[5] r[6]).toNat + (roundConstant t).toNat + w.toNat) % 2 ^ 32 := by
  simp only [temp1, add32_toNat, Nat.mod_add_mod]

theorem temp2_toNat (r : Eight) :
    (temp2 r).toNat = ((bsig0 r[0]).toNat + (maj r[0] r[1] r[2]).toNat) % 2 ^ 32 := by
  rw [temp2, add32_toNat]

/-- Settles O28: the two sums are reduced once more when they meet, and the last index is where the phase changes. -/
theorem rndPerformsOneRound : Obligations.RndPerformsOneRound := by
  intro n hn
  obtain ⟨x, rfl, hofNat⟩ := exists_index hn
  rw [hofNat]
  refine ⟨decode_seq_ofNat 0x9#4 x, fun s => ⟨_, exec_rndT x s, rfl, ⟨_, _, rfl, rfl, ?_, ?_⟩,
    rfl, rfl, rfl, rfl, rfl, rfl, ?_⟩⟩
  · show (add32 (temp1 x s.r (at64 s.w x)) (temp2 s.r)).toNat = _
    rw [add32_toNat, temp1_toNat, temp2_toNat, ← Nat.add_mod]
    rfl
  · show (add32 s.r[3] (temp1 x s.r (at64 s.w x))).toNat = _
    rw [add32_toNat, temp1_toNat, Nat.add_mod_mod]
    rfl
  · by_cases more : x.toNat < 63
    · simp [more, index_succ_toNat more]
    · obtain rfl : x = 63#6 := by bv_omega
      exact ⟨rfl, rfl⟩

/-! ### FOLD (R149) -/

theorem execFold_eq (s : State) : exec .fold s = .next { s with
    h := foldInto s.h s.r, j := nextBlockIndex s.j, ph := if s.j.toNat + 1 = s.nb.toNat then 0xB#4 else 0x5#4,
    t := 0#6 } := by
  show execFold s = _
  simp only [execFold, State.setH_setJ_setSeq]
  by_cases last : s.j.toNat + 1 = s.nb.toNat
  · rw [if_pos last, if_pos last, Phase.code]
  · rw [if_neg last, if_neg last, Phase.code]

theorem foldInto_getElem_toNat (h r : Eight) {k : Nat} (hk : k < 8) :
    (foldInto h r)[k].toNat = (h[k].toNat + r[k].toNat) % 2 ^ 32 := by
  rw [foldInto, Vector.getElem_ofFn, add32_toNat]
  rfl

/-- Settles O29: the sums entry by entry, and the index where it fits the register. -/
theorem foldAccumulates : Obligations.FoldAccumulates :=
  ⟨decode_seqWord 0xA#4 0#6, fun s => ⟨_, execFold_eq s, rfl, fun _ hk => foldInto_getElem_toNat s.h s.r hk,
    nextBlockIndex_toNat, rfl⟩⟩

/-! ### The 131 steps of one block (R145, R203)

LDB loads the block; 64 steps of LDW and EXP fill the schedule; LDR copies the Hash State; 64 steps of RND perform the
rounds; FOLD adds the result into the Hash State. The state after each step is written out, so that a run is a chain of
equations. -/

/-- A run through the states `f 0, f 1, ...`, each a step after the one before it. -/
theorem run_sequence {f : Nat → State} {m : Nat} (n : Nat) (h : ∀ i, i < m → step (f i) = .next (f (i + 1))) :
    Host.Core.run core (m + n) (f 0) = Host.Core.run core n (f m) := by
  induction m generalizing n with
  | zero => rw [Nat.zero_add]
  | succ m ih =>
    rw [Nat.add_right_comm, Nat.add_assoc, ih (n + 1) fun i hi => h i (by omega), run_succ (h m (by omega))]

/-- The register `W` when the first `n` entries of the schedule of `b` have been written over `w` (R133, R134). -/
def filledTo (b : Block) (w : Schedule) (n : Nat) : Schedule :=
  Vector.ofFn fun i => if i.val < n then (expand b)[i] else w[i]

theorem filledTo_zero (b : Block) (w : Schedule) : filledTo b w 0 = w := by
  ext i hi
  simp [filledTo]

theorem filledTo_all (b : Block) (w : Schedule) : filledTo b w 64 = expand b := by
  ext i hi
  simp [filledTo]

theorem filledTo_getElem_of_lt (b : Block) (w : Schedule) {n i : Nat} (hi : i < 64) (h : i < n) :
    (filledTo b w n)[i] = (expand b)[i] := by
  simp [filledTo, h]

/-- Writing entry `n` fills one entry more. -/
theorem filledTo_set (b : Block) (w : Schedule) {n : Nat} (hn : n < 64) :
    (filledTo b w n).set n (expand b)[n] hn = filledTo b w (n + 1) := by
  ext i hi
  rw [Vector.getElem_set]
  split
  · subst i
    rw [filledTo_getElem_of_lt b w hn (Nat.lt_succ_self n)]
  · have same : i < n ↔ i < n + 1 := by omega
    simp only [filledTo, Vector.getElem_ofFn, same]

/-- From LDB to LDR: `n` entries of the schedule of `b` are filled, by LDW below entry 16 and by EXP from there on. -/
def State.filling (s : State) (b : Block) (n : Nat) : State :=
  { s with
    b := b, w := filledTo b s.w n, ph := if n < 16 then 0x6#4 else if n < 64 then 0x7#4 else 0x8#4, t := BitVec.ofNat 6 n }

/-- From LDR to FOLD: `n` rounds on the schedule of `b` have been performed, starting from the Hash State. -/
def State.rounding (s : State) (b : Block) (n : Nat) : State :=
  { s with
    b := b, w := expand b, r := rounds (expand b) s.h n, ph := if n < 64 then 0x9#4 else 0xA#4, t := BitVec.ofNat 6 n }

theorem State.filling_agenda (s : State) (b : Block) (n : Nat) : (s.filling b n).agenda = s.agenda := by
  rw [State.filling]

theorem State.rounding_agenda (s : State) (b : Block) (n : Nat) : (s.rounding b n).agenda = s.agenda := by
  rw [State.rounding]

section
variable {s : State} (agenda : s.agenda = []) (b : Block)
include agenda

theorem step_ldb_filling (ph : s.ph = 0x5#4) (t : s.t = 0#6) (bytes : ∀ k (hk : k < 64), blockByte s k = .ok b[k]) :
    step s = .next (s.filling b 0) := by
  have hldb : exec .ldb s = .next { s with b := b, ph := 0x6#4, t := 0#6 } := execLdb_ok (collect_ok.mpr bytes)
  rw [step_idle_agenda agenda (i := .ldb) (by rw [ph, t]; rfl), hldb, State.filling, filledTo_zero]
  rfl

/-- LDW writes an entry below 16, a word of the block. -/
theorem step_filling_of_lt {n : Nat} (low : n < 16) : step (s.filling b n) = .next (s.filling b (n + 1)) := by
  obtain ⟨x, rfl, hofNat⟩ := exists_index (n := n) (by omega)
  have hdecode : decodeSeq (s.filling b x.toNat).ph (s.filling b x.toNat).t = .ok (.ldwT x) := by
    simp [State.filling, hofNat, low, decodeSeq]
  have more : x.toNat + 1 < 16 ↔ x.toNat < 15 := by omega
  have inside : x.toNat + 1 < 64 := by omega
  rw [step_idle_agenda ((s.filling_agenda b _).trans agenda) hdecode, exec_ldwT low]
  simp only [State.filling, ← expand_getElem_of_lt b low, filledTo_set, more, inside, if_true, BitVec.ofNat_add, hofNat]

/-- EXP writes an entry from 16 on, the recurrence on entries that are there already. -/
theorem step_filling_of_ge {n : Nat} (high : 16 ≤ n) (hn : n < 64) :
    step (s.filling b n) = .next (s.filling b (n + 1)) := by
  obtain ⟨x, rfl, hofNat⟩ := exists_index hn
  have hdecode : decodeSeq (s.filling b x.toNat).ph (s.filling b x.toNat).t = .ok (.expT x) := by
    simp [State.filling, hofNat, Nat.not_lt.mpr high, high, hn, decodeSeq]
  have past : ¬ x.toNat + 1 < 16 := by omega
  have more : x.toNat + 1 < 64 ↔ x.toNat < 63 := by omega
  have back : ∀ k, 0 < k → (filledTo b s.w x.toNat)[x.toNat - k] = (expand b)[x.toNat - k] :=
    fun k hk => filledTo_getElem_of_lt b s.w (by omega) (by omega)
  rw [step_idle_agenda ((s.filling_agenda b _).trans agenda) hdecode, exec_expT high]
  simp only [State.filling, back, Nat.zero_lt_succ, ← expand_getElem_of_ge b high hn, filledTo_set, past, more, if_false,
    BitVec.ofNat_add, hofNat]

theorem step_filling {n : Nat} (hn : n < 64) : step (s.filling b n) = .next (s.filling b (n + 1)) := by
  rcases Nat.lt_or_ge n 16 with low | high
  · exact step_filling_of_lt agenda b low
  · exact step_filling_of_ge agenda b high hn

theorem step_ldr_rounding : step (s.filling b 64) = .next (s.rounding b 0) := by
  rw [step_idle_agenda ((s.filling_agenda b 64).trans agenda) (i := .ldr) rfl, execLdr_eq, State.filling, filledTo_all]
  rfl

theorem step_rounding {n : Nat} (hn : n < 64) : step (s.rounding b n) = .next (s.rounding b (n + 1)) := by
  obtain ⟨x, rfl, hofNat⟩ := exists_index hn
  have hdecode : decodeSeq (s.rounding b x.toNat).ph (s.rounding b x.toNat).t = .ok (.rndT x) := by
    simp [State.rounding, hofNat, hn, decodeSeq]
  have more : x.toNat + 1 < 64 ↔ x.toNat < 63 := by omega
  rw [step_idle_agenda ((s.rounding_agenda b _).trans agenda) hdecode, exec_rndT]
  simp only [State.rounding, rounds_succ, more, BitVec.ofNat_add, hofNat]

theorem step_fold_rounding : step (s.rounding b 64) = .next { s with
    b := b, w := expand b, r := rounds (expand b) s.h 64, h := compress s.h b, j := nextBlockIndex s.j,
    ph := if s.j.toNat + 1 = s.nb.toNat then 0xB#4 else 0x5#4, t := 0#6 } :=
  (step_idle_agenda ((s.rounding_agenda b 64).trans agenda) (i := .fold) rfl).trans (execFold_eq _)

end

/-- Settles O43: the five parts of the run one after another, `1 + 64 + 1 + 64 + 1` steps. -/
theorem blockStepsCompress : Obligations.BlockStepsCompress := by
  intro s b ph ht agenda bytes
  have hrun := calc Host.Core.run core 131 s
    _ = Host.Core.run core 130 (s.filling b 0) := run_succ (step_ldb_filling agenda b ph ht bytes)
    _ = Host.Core.run core 66 (s.filling b 64) := run_sequence 66 fun _ hi => step_filling agenda b hi
    _ = Host.Core.run core 65 (s.rounding b 0) := run_succ (step_ldr_rounding agenda b)
    _ = Host.Core.run core 1 (s.rounding b 64) := run_sequence 1 fun _ hi => step_rounding agenda b hi
    _ = _ := run_succ (step_fold_rounding agenda b)
  exact ⟨_, hrun, rfl, nextBlockIndex_toNat, rfl, rfl, by rw [ht]⟩

end Sys2Proof.Machine
end

section
/-! The Digest Assembler (44_digest_assembler.md): the bytes of the digest by their values and the operation ASM
(R160, R162), and which messages have a digest (R161, R172). -/

namespace Sys2Proof.Machine

/-! ### The bytes of the digest (R14, R160) -/

theorem byteBe32_toNat (w : Word) (i : Fin 4) : (byteBe32 w i).toNat = w.toNat / 2 ^ (8 * (3 - i.val)) % 2 ^ 8 := by
  rw [byteBe32, BitVec.extractLsb'_toNat, Nat.shiftRight_eq_div_pow, show 24 - 8 * i.val = 8 * (3 - i.val) by omega]

/-- The quotient of the digest byte's index by 4 names the word, the remainder the byte in it. -/
theorem assemble_getElem (h : Eight) {k i : Nat} (hk : k < 8) (hi : i < 4) :
    (assemble h)[4 * k + i] = byteBe32 h[k] ⟨i, hi⟩ := by
  have word : (4 * k + i) / 4 = k := by omega
  have byte : (4 * k + i) % 4 = i := by omega
  simp only [assemble, Vector.getElem_ofFn, word, byte]

/-! ### ASM (R162) -/

/-- Settles O30: the update of `DG` and the transfer to FIN as one record, the digest read byte by byte. -/
theorem asmWritesTheDigest : Obligations.AsmWritesTheDigest := by
  refine ⟨decode_seqWord 0xB#4 0#6, fun s => ⟨_, execAsm_eq s, rfl, fun k hk i hi => ?_, fun noError => ?_⟩⟩
  · rw [assemble_getElem s.h hk hi, byteBe32_toNat]
  · exact State.status_of_fin rfl noError

/-! ### Which messages have a digest (R161) -/

theorem digestOf_tooLarge {m : List Byte} (long : 2 ^ 61 ≤ m.length) : digestOf m = .error .messageTooLarge := by
  rw [digestOf, if_pos long]

/-- Settles O57: segmenting never fails on a padded message, so that the test of the length alone decides. -/
theorem digestIsTotalBelowTheBound : Obligations.DigestIsTotalBelowTheBound :=
  fun _ => ⟨fun short => ⟨_, digestOf_eq short⟩, digestOf_tooLarge⟩

end Sys2Proof.Machine
end

section
/-! Exceptions (60_exceptions.md): InvalidPaddingLength is never raised after PADL (R171). -/

namespace Sys2Proof.Machine

/-- PADL (R117) leaves the padded length of `LB` in `PB`, and the error code as it was. -/
theorem execPadl_next {s t : State} (h : exec .padl s = .next t) :
    t.pb.toNat = paddedBits s.lb.toNat ∧ t.ecode = s.ecode := by
  obtain rfl := Host.Outcome.next.inj h
  exact ⟨toNat_ofNat_paddedBits s.lb, rfl⟩

/-- Settles O21: the length PADL leaves in `PB` is a multiple of 512, so SEGC takes its other end. -/
theorem invalidPaddingLengthIsDead : Obligations.InvalidPaddingLengthIsDead := by
  intro s t hpadl
  obtain ⟨hpb, hecode⟩ := execPadl_next hpadl
  rcases execSegc_cases t with ⟨odd, -⟩ | ⟨-, hsegc⟩
  · exact absurd (hpb ▸ paddedBits_mod s.lb.toNat) odd
  · exact ⟨_, hsegc, hecode, rfl, (toNat_extractLsb'_nine t.pb).trans (by rw [hpb])⟩

end Sys2Proof.Machine
end

section
/-! Reset and hazards (70_reset_and_hazards.md R190, R196, R199, R200, R203): the reset event, what can happen while the
engine is busy, and why the leftovers of an engine that is not busy never reach the host. -/

namespace Sys2Proof.Machine

/-! ### The reset event (R190) -/

theorem State.status_of_idle {s : State} (idle : s.ph = 0x0#4) (noError : s.ecode = 0#4) :
    s.status = 0x00000000#32 := by
  refine BitVec.eq_of_toNat_eq ?_
  rw [State.status_toNat]
  simp [State.busy, State.done, State.err, idle, noError, Phase.code]

theorem step_reset {s : State} (turn : s.turn = .reset) : step s = .next s.consume.resetEvent := by
  simp only [step, turn]

/-- Settles O36: the registers R190 speaks of are cleared, and the three fields of the model's own are those of `s`. -/
theorem resetEventEffect : Obligations.ResetEventEffect :=
  fun _ turn => ⟨_, step_reset turn, rfl, rfl, rfl, rfl, fun _ hi => Vector.getElem_replicate hi,
    State.status_of_idle rfl rfl, rfl, rfl, rfl⟩

/-! ### What happens while the engine is busy (R199, R200, R203) -/

/-- While the engine is busy a host's operation is ignored or answered (R91, R92, R97, R200). -/
theorem HostMove.eq_or_answer_of_busy {s t : State} {i : Instr} (move : HostMove s i t) (busy : s.busy = true) :
    t = s ∨ ∃ x, t = s.answer x := by
  cases move with
  | ignored => exact .inl rfl
  | answered _ x => exact .inr ⟨x, rfl⟩
  | length _ rest | accepted _ rest => exact absurd (busy.symm.trans rest) (by decide)

/-- Settles O16, for each of the two. -/
theorem hostOperationsWhileBusyChangeNothing : Obligations.HostOperationsWhileBusyChangeNothing := by
  intro i s t hi busy h
  rcases (hostMove_of_exec hi h).eq_or_answer_of_busy busy with rfl | ⟨x, rfl⟩
  · exact ⟨rfl, .inl rfl⟩
  · exact ⟨rfl, .inr ⟨x, rfl⟩⟩

/-- Settles O41: an operation writes no memory, and the host's own turns are refused at these offsets. -/
theorem messageIsStableWhileBusy : Obligations.MessageIsStableWhileBusy := by
  intro s t p busy hp h
  have ne_of_may : ∀ {q}, s.holdsMessageByte q = false → p ≠ q := by
    rintro q may rfl
    exact State.holdsMessageByte_eq_false.mp may ⟨busy, hp⟩
  rcases step_cases h with ⟨-, i, -, hexec⟩ | ⟨a, -, i, -, hexec⟩ | ⟨q, b, -, -, may, rfl⟩ | ⟨q, -, may, rfl⟩ | ⟨-, rfl⟩
  · exact noOperationWritesMemory i s.consume t p hexec
  · exact noOperationWritesMemory i s.consume t p hexec
  · exact Memory.read_write_other s.mem b (ne_of_may may)
  · exact Memory.read_erase_other s.mem (ne_of_may may)
  · rfl

/-- The sequencer's turn of a computation completes, whatever turns come after it. -/
theorem Computes.step_next {m : List Byte} {s : State} (c : Computes m s) (turn : s.turn = .sequencer) :
    ∃ t, step s = .next t := by
  obtain ⟨i, hi⟩ := c.legal.decodeSeq_ok
  obtain ⟨t, ht⟩ := c.consume.exec_next hi
  exact ⟨t, (step_sequencer turn (s.microOp_eq.trans hi)).trans ht⟩

/-- Settles O47: what the host does to a busy engine leaves the computation, and with it the sequencer's step. -/
theorem busySequencerHasAStep : Obligations.BusySequencerHasAStep := by
  intro m s c busy
  refine ⟨c.step_next, fun a t turn h => ?_⟩
  have ct : Computes m t :=
    computationSurvivesEveryInterleaving m s t c (by rw [turn]; nofun) (.inl busy) h
  rcases step_cases h with ⟨hturn, -⟩ | ⟨a, -, i, hi, hexec⟩ | ⟨_, _, hturn, -⟩ | ⟨_, hturn, -⟩ | ⟨hturn, -⟩
  case inr.inl =>
    have move := hostMove_of_exec (isHostOperation_of_decodeHost hi) hexec
    rcases move.eq_or_answer_of_busy busy with rfl | ⟨x, rfl⟩ <;> exact ⟨busy, rfl, rfl, ct.step_next⟩
  all_goals cases turn.symm.trans hturn

/-! ### Two engines the host cannot tell apart (R37, R196) -/

/-- The live internal registers hold the same in `s` and `t` when `SEQ` is at phase code `p` and index `x`: those written
since the command was accepted, `B`, `W` (entry by entry) and `R` since their block was begun (R78). No other is read
before it is written. -/
def SameLive (p x : Nat) (s t : State) : Prop :=
  s.lreg = t.lreg ∧ (2 ≤ p → s.lb = t.lb) ∧ (3 ≤ p → s.pb = t.pb) ∧ (4 ≤ p → s.nb = t.nb) ∧
    (5 ≤ p → s.h = t.h ∧ s.j = t.j) ∧ (6 ≤ p → s.b = t.b) ∧ (9 ≤ p → s.r = t.r) ∧
    (6 ≤ p → ∀ i (hi : i < 64), i < x ∨ 8 ≤ p → s.w[i] = t.w[i])

/-- Two states the host cannot tell apart, now or later: while busy they agree in the live registers too. -/
structure Twins (s t : State) : Prop where
  host : SameToHost s t
  live : s.busy = true → SameLive s.ph.toNat s.t.toNat s t

/-- Twins, or the same stop. -/
inductive TwinOutcome : Host.Outcome State Fault Refusal → Host.Outcome State Fault Refusal → Prop
  | next {s t : State} (twins : Twins s t) : TwinOutcome (.next s) (.next t)
  | fault (e : Fault) : TwinOutcome (.fault e) (.fault e)
  | refused (e : Refusal) : TwinOutcome (.refused e) (.refused e)

/-- An engine that is not busy has no live internal register. -/
theorem Twins.of_rest {s t : State} (host : SameToHost s t) (rest : s.busy = false) : Twins s t :=
  ⟨host, fun busy => absurd (busy.symm.trans rest) (by decide)⟩

/-- From `s` to `s'` only internal registers are written, and `SEQ` moves to phase code `p` and index `x`. -/
def WritesInternal (p : BitVec 4) (x : BitVec 6) (s s' : State) : Prop :=
  s' = { s with
    h := s'.h, r := s'.r, w := s'.w, b := s'.b, lreg := s'.lreg, lb := s'.lb, pb := s'.pb, nb := s'.nb, j := s'.j,
    ph := p, t := x }

theorem WritesInternal.seq_eq {p : BitVec 4} {x : BitVec 6} {s s' : State} (h : WritesInternal p x s s') :
    s'.ph = p ∧ s'.t = x :=
  ⟨congrArg State.ph h, congrArg State.t h⟩

/-- Writing the same value to the same entry: what the other entries agreed in, they agree in still. -/
theorem getElem_set_congr {w w' : Schedule} {n i : Nat} (hn : n < 64) (v : Word) (hi : i < 64)
    (others : i ≠ n → w[i] = w'[i]) : (w.set n v)[i] = (w'.set n v)[i] := by
  rw [Vector.getElem_set, Vector.getElem_set]
  split
  · rfl
  · exact others (by omega)

section
variable {s t : State} (twins : Twins s t)
include twins

/-! The turns and the host. -/

theorem Twins.busy_eq : s.busy = t.busy := by
  simp only [State.busy, twins.host.seq.1]

theorem Twins.status_eq : s.status = t.status := by
  simp only [State.status, State.done, State.err, twins.busy_eq, twins.host.seq.1, twins.host.ecode]

theorem Twins.turn_eq : s.turn = t.turn := by
  simp only [State.turn, twins.host.agenda]

theorem Twins.consume : Twins s.consume t.consume :=
  ⟨{ twins.host with agenda := congrArg List.tail twins.host.agenda }, twins.live⟩

theorem Twins.answer (x : Word) : Twins (s.answer x) (t.answer x) :=
  ⟨{ twins.host with answers := congrArg (x :: ·) twins.host.answers }, twins.live⟩

theorem Twins.setLen (v : BitVec 64) : Twins (s.setLen v) (t.setLen v) :=
  ⟨{ twins.host with len := rfl }, twins.live⟩

theorem Twins.setMem (m : List Host.Cell) : Twins (s.setMem m) (t.setMem m) :=
  ⟨{ twins.host with mem := rfl }, twins.live⟩

/-- Acceptance makes `LREG` live and latches the same length. -/
theorem Twins.accept : Twins s.accept t.accept where
  host := { twins.host with seq := ⟨rfl, rfl⟩, ecode := rfl, dg := rfl }
  live _ := by simp [SameLive, State.accept_frame, Phase.code, twins.host.len]

theorem Twins.resetEvent : Twins s.resetEvent t.resetEvent :=
  .of_rest { twins.host with
    seq := ⟨rfl, rfl⟩, ecode := rfl, len := rfl, dg := rfl, resets := congrArg (· + 1) twins.host.resets } rfl

theorem Twins.raise (e : EngineError) : Twins (s.raise e) (t.raise e) :=
  .of_rest { twins.host with seq := ⟨rfl, rfl⟩, ecode := rfl } rfl

/-- `LREG` is live while the engine is busy. -/
theorem Twins.holdsMessageByte_eq (p : Nat) : s.holdsMessageByte p = t.holdsMessageByte p := by
  rw [State.holdsMessageByte, State.holdsMessageByte, ← twins.busy_eq]
  cases busy : s.busy with
  | false => rfl
  | true =>
    obtain ⟨hlreg, -⟩ := twins.live busy
    rw [hlreg]

theorem Twins.digestCommand : TwinOutcome (digestCommand s) (digestCommand t) := by
  cases busy : s.busy with
  | false =>
    rw [digestCommand_idle busy, digestCommand_idle (twins.busy_eq ▸ busy)]
    exact .next twins.accept
  | true =>
    rw [digestCommand_busy busy, digestCommand_busy (twins.busy_eq ▸ busy)]
    exact .next twins

theorem Twins.writeLen (v : BitVec 64) : TwinOutcome (writeLen v s) (writeLen v t) := by
  cases busy : s.busy with
  | false =>
    rw [writeLen_idle busy, writeLen_idle (twins.busy_eq ▸ busy)]
    exact .next (twins.setLen v)
  | true =>
    rw [writeLen_busy busy, writeLen_busy (twins.busy_eq ▸ busy)]
    exact .next twins

theorem Twins.answered {x y : Word} (same : x = y) : TwinOutcome (.next (s.answer x)) (.next (t.answer y)) :=
  same ▸ .next (twins.answer x)

/-- What the host does and is handed is a matter of the registers it sees. -/
theorem Twins.exec_host {i : Instr} (hi : isHostOperation i) : TwinOutcome (exec i s) (exec i t) := by
  cases i
  case wrCmd v =>
    simp only [exec, execWrCmd]
    split
    · exact twins.digestCommand
    · exact .refused _
  case digest => exact twins.digestCommand
  case wrLenLo v => simpa only [exec, execWrLenLo, twins.host.len] using twins.writeLen _
  case wrLenHi v => simpa only [exec, execWrLenHi, twins.host.len] using twins.writeLen _
  case wrStatus | wrDigest0 | wrDigest1 | wrDigest2 | wrDigest3 | wrDigest4 | wrDigest5 | wrDigest6 | wrDigest7 =>
    exact .next twins
  case rdCmd => exact .next (twins.answer _)
  case rdStatus => exact twins.answered twins.status_eq
  case rdLenLo => exact twins.answered (congrArg (BitVec.extractLsb' 0 32) twins.host.len)
  case rdLenHi => exact twins.answered (congrArg (BitVec.extractLsb' 32 32) twins.host.len)
  case rdDigest0 | rdDigest1 | rdDigest2 | rdDigest3 | rdDigest4 | rdDigest5 | rdDigest6 | rdDigest7 =>
    exact twins.answered (congrArg (digestWord · _) twins.host.dg)
  all_goals exact hi.elim

/-! The sequencer. -/

/-- When both write internal registers, what is live then has to hold the same. -/
theorem Twins.internal {p : BitVec 4} {x : BitVec 6} {s' t' : State} (hs : WritesInternal p x s s')
    (ht : WritesInternal p x t t') (live : SameLive p.toNat x.toNat s' t') : Twins s' t' where
  host := by
    rw [hs, ht]
    exact { twins.host with seq := ⟨rfl, rfl⟩ }
  live _ := by
    obtain ⟨hph, hx⟩ := hs.seq_eq
    rwa [hph, hx]

theorem Twins.live_of_ph {p : BitVec 4} (ph : s.ph = p)
    (hp : p ≠ Phase.idle.code ∧ p ≠ Phase.fin.code ∧ p ≠ Phase.errh.code := by decide) :
    SameLive p.toNat s.t.toNat s t :=
  ph ▸ twins.live (State.busy_eq_true.mpr (ph ▸ hp))

/-- LDB asks for the same byte at each place of its block. -/
theorem Twins.blockByte_eq (ph : s.ph = 0x5#4) : blockByte s = blockByte t := by
  have live := twins.live_of_ph ph
  simp [SameLive] at live
  funext k
  simp only [blockByte, live, twins.host.mem]

/-- LDB loads the same block, or stops at the same fault. -/
theorem Twins.execLdb (ph : s.ph = 0x5#4) : TwinOutcome (execLdb s) (execLdb t) := by
  have bytes := twins.blockByte_eq ph
  have live := twins.live_of_ph ph
  cases hc : collect (blockByte s) 64 with
  | error e =>
    rw [execLdb_error hc, execLdb_error (bytes ▸ hc)]
    exact .fault e
  | ok v =>
    rw [execLdb_ok hc, execLdb_ok (bytes ▸ hc)]
    simp [SameLive] at live
    exact .next (twins.internal rfl rfl (by simp [SameLive, Phase.code, live]))

/-- LDW writes the word that is live from here on. -/
theorem Twins.exec_ldwT (ph : s.ph = 0x6#4) (hx : s.t.toNat < 16) :
    TwinOutcome (exec (.ldwT s.t) s) (exec (.ldwT s.t) t) := by
  have live := twins.live_of_ph ph
  simp [SameLive] at live
  obtain ⟨hlreg, hlb, hpb, hnb, ⟨hh, hj⟩, hb, hw⟩ := live
  rw [Machine.exec_ldwT hx, Machine.exec_ldwT hx, hb]
  refine .next (twins.internal rfl rfl ?_)
  have written : ∀ i (hi : i < 64), i < (s.t + 1#6).toNat → _ :=
    fun i hi before => getElem_set_congr s.t.isLt (blockWord t.b ⟨s.t.toNat, hx⟩) hi fun hne => hw i hi (by bv_omega)
  split_ifs <;> simpa [SameLive, hlreg, hlb, hpb, hnb, hh, hj, hb] using written

/-- EXP reads entries before its own, which are live. -/
theorem Twins.exec_expT (ph : s.ph = 0x7#4) (hx : 16 ≤ s.t.toNat) :
    TwinOutcome (exec (.expT s.t) s) (exec (.expT s.t) t) := by
  have live := twins.live_of_ph ph
  simp [SameLive] at live
  obtain ⟨hlreg, hlb, hpb, hnb, ⟨hh, hj⟩, hb, hw⟩ := live
  have earlier : ∀ k (hk : 0 < k ∧ k ≤ 16), s.w[s.t.toNat - k] = t.w[s.t.toNat - k] :=
    fun k hk => hw _ (by omega) (by omega)
  rw [Machine.exec_expT hx, Machine.exec_expT hx, earlier 16 (by decide), earlier 15 (by decide), earlier 7 (by decide),
    earlier 2 (by decide)]
  refine .next (twins.internal rfl rfl ?_)
  have written : ∀ v i (hi : i < 64), i ≤ s.t.toNat → _ :=
    fun v i hi upTo => getElem_set_congr s.t.isLt v hi fun hne => hw i hi (by omega)
  split_ifs with more
  · have next := index_succ_toNat more
    simpa [SameLive, hlreg, hlb, hpb, hnb, hh, hj, hb] using fun i hi before => written _ i hi (by omega)
  · simpa [SameLive, hlreg, hlb, hpb, hnb, hh, hj, hb] using fun i hi => written _ i hi (by omega)

/-- A micro-operation reads live registers only, and what it writes becomes live. -/
theorem Twins.exec_sequencer {i : Instr} (hi : decodeSeq s.ph s.t = .ok i) : TwinOutcome (exec i s) (exec i t) := by
  have fields := seqOf_decodeSeq hi
  cases i <;> simp only [seqOf, decide_eq_true_eq, Bool.false_eq_true] at fields
  case idle | fin | errh => exact .next twins
  case ldwT x =>
    obtain ⟨ph, rfl, hx⟩ := fields
    exact twins.exec_ldwT ph hx
  case expT x =>
    obtain ⟨ph, rfl, hx⟩ := fields
    exact twins.exec_expT ph hx
  all_goals
    obtain ⟨ph, -⟩ := fields
    have live := twins.live_of_ph ph
    simp [SameLive] at live
  case ldb => exact twins.execLdb ph
  case chk =>
    simp only [exec, execChk, live]
    split_ifs
    · exact .next (twins.raise _)
    · exact .next (twins.internal rfl rfl (by simp [SameLive, Phase.code, live]))
  case padl | init => exact .next (twins.internal rfl rfl (by simp [SameLive, Phase.code, live]))
  case segc =>
    simp only [exec, execSegc, live]
    split_ifs
    · exact .next (twins.raise _)
    · exact .next (twins.internal rfl rfl (by simp [SameLive, Phase.code, live]))
  case ldr => exact .next (twins.internal rfl rfl (by simp +contextual [SameLive, live]))
  case rndT x =>
    rw [exec_rndT, exec_rndT]
    refine .next (twins.internal rfl rfl ?_)
    split_ifs <;> simp +contextual [SameLive, live, at64]
  case fold =>
    rw [execFold_eq, execFold_eq]
    simp only [live]
    refine .next (twins.internal rfl rfl ?_)
    split_ifs <;> simp [SameLive, live]
  case asm =>
    rw [execAsm_eq, execAsm_eq]
    exact .next (.of_rest { twins.host with seq := ⟨rfl, rfl⟩, dg := by simp [live] } rfl)

/-! A step of either agent. -/

theorem Twins.hostPlace (p : Nat) (b : Byte) : TwinOutcome (hostPlace p b s) (hostPlace p b t) := by
  simp only [Machine.hostPlace, twins.holdsMessageByte_eq, twins.host.mem]
  split
  · exact .fault _
  · split
    · exact .refused _
    · exact .next (twins.setMem _)

theorem Twins.hostFree (p : Nat) : TwinOutcome (hostFree p s) (hostFree p t) := by
  simp only [Machine.hostFree, twins.holdsMessageByte_eq, twins.host.mem]
  split
  · exact .refused _
  · exact .next (twins.setMem _)

theorem Twins.step : TwinOutcome (step s) (step t) := by
  simp only [Machine.step, ← twins.turn_eq]
  split
  · rw [State.microOp_eq, State.microOp_eq, ← twins.host.seq.1, ← twins.host.seq.2]
    cases hi : decodeSeq s.ph s.t with
    | error why => exact .refused _
    | ok i => exact twins.consume.exec_sequencer hi
  · next a _ =>
    cases hi : decodeHost a with
    | error why => exact .refused _
    | ok i => exact twins.consume.exec_host (isHostOperation_of_decodeHost hi)
  · exact twins.consume.hostPlace _ _
  · exact twins.consume.hostFree _
  · exact .next twins.consume.resetEvent

end

theorem Twins.run {s t : State} (twins : Twins s t) (n : Nat) :
    TwinOutcome (Host.Core.run core n s) (Host.Core.run core n t) := by
  induction n generalizing s t with
  | zero => exact .next twins
  | succ n ih =>
    have same : TwinOutcome (core.step s) (core.step t) := twins.step
    simp only [Host.Core.run]
    generalize core.step s = o, core.step t = o' at same ⊢
    cases same with
    | next twins' => exact ih twins'
    | fault e => exact .fault e
    | refused e => exact .refused e

theorem TwinOutcome.sameOutcome {o o' : Host.Outcome State Fault Refusal} (same : TwinOutcome o o') :
    sameOutcome o o' := by
  cases same with
  | next twins => exact twins.host
  | fault | refused => rfl

/-- Settles O48: states that are not busy are twins, and every step keeps them so. -/
theorem leftoversNeverReachTheHost : Obligations.LeftoversNeverReachTheHost :=
  fun _ _ host rest n => ((Twins.of_rest host rest).run n).sameOutcome

end Sys2Proof.Machine
end
